-- ==== Sys2Proof/Word.lean ====
section
/-! DEFINITION. The word types of the core: every stored value of the spec is an unsigned bit vector (rule R11). -/

namespace Sys2Proof

/-- `u8` of rule R11: a memory byte, a general register, a timer. -/
abbrev Byte := BitVec 8

/-- `u16` of rule R11: an opcode, `I`, `pc`, a stack entry. -/
abbrev Word := BitVec 16

/-- The index of a general register `V0`..`VF` (rule R22). -/
abbrev Reg := Fin 16

/-- One row of the framebuffer store: bit `x` is the pixel of column `x`, column 0 the leftmost (rule R31). -/
abbrev Row := BitVec 128

/-- The 64 rows by 128 columns of the framebuffer store (rules R20, R31); row 0 is the top row. -/
abbrev Framebuffer := Vector Row 64

end Sys2Proof
end

