-- ==== Sys2Proof/Config.lean ====
section
/-! DEFINITION. What is fixed at construction (the parameters of rule R9) and the free values of the spec (`draw()` and
the step's inputs, rules R14, R100). The parameters' DEFAULT values stand in Machine/Params.lean. -/

namespace Sys2Proof

/-- VF_RESULT_ORDER (rules R9, R136): what VF holds when it is both destination and flag. -/
inductive VfResultOrder where
  | unspecified | flagLast | resultLast
deriving DecidableEq, Repr

/-- BASE_VERTICAL (rules R9, R172, R173): a base-mode sprite row below row 31. -/
inductive BaseVertical where
  | fault | wrap | clip
deriving DecidableEq, Repr

/-- MODE_SWITCH_FB (rules R9, R181): the framebuffer after LOW or HIGH. -/
inductive ModeSwitchFb where
  | unspecified | keep | clear
deriving DecidableEq, Repr

/-- BASE_MODE_SCROLL (rules R9, R178): a scroll while extended mode is off. -/
inductive BaseModeScroll where
  | unspecified | noop | full
deriving DecidableEq, Repr

/-- EXIT_MODE (rules R9, R182): what the word 00FD is. -/
inductive ExitMode where
  | fault | unknown
deriving DecidableEq, Repr

/-- The sixteen parameters of rule R9, under the spec's names. "The parameters of 00_scope.md rule R9 are fixed at
construction and never change during the instance's life" (rule R300). -/
structure Params where
  quirkVfAddExclusion   : Bool
  zeroFamilyStrict      : Bool
  skipRegStrict         : Bool
  pcAlignCheck          : Bool
  fetchLowCheck         : Bool
  vfResultOrder         : VfResultOrder
  shlFlagRaw            : Bool
  bnnnUsesVx            : Bool
  loadStoreIncrementsI  : Bool
  baseVertical          : BaseVertical
  dxy0Wide              : Bool
  modeSwitchFb          : ModeSwitchFb
  baseModeScroll        : BaseModeScroll
  exitMode              : ExitMode
  /-- FONT_SMALL: any 80-byte table (rule R57). -/
  fontSmall             : Vector Byte 80
  /-- FONT_LARGE: any 100-byte table (rule R58). -/
  fontLarge             : Vector Byte 100
deriving DecidableEq, Repr

/-- The byte of the `k`-th draw: VF under VF_RESULT_ORDER = unspecified (rule R136, assumption log 3). -/
opaque Config.freeByte : Nat → Byte

/-- Row `y` of the `k`-th draw of a whole framebuffer: every cell an independent draw (rules R178, R181, log 3). -/
opaque Config.freeRow : Nat → Nat → Row

/-- The key snapshot `keyIn` that the host supplies at the `k`-th draw: a free 16-bit input (rules R100, R282, log 2). -/
opaque Config.freeKeys : Nat → BitVec 16

/-- The random byte `rnd` that the host supplies at the `k`-th draw: a free byte under no law (rules R100, R285, log 2). -/
opaque Config.freeRnd : Nat → Byte

end Sys2Proof
end

