-- ==== Sys2Proof/Machine/Params.lean ====
section
/-! DEFINITION. The default value of each parameter of rule R9, the default fonts among them (rules R57, R58). They stand
in this file, and not in Config.lean, so that a test of the hardware may mend them. -/

namespace Sys2Proof.Machine

/-- Glyphs 0 to 7 of the standard small font (rule R57). -/
def fontSmallLow : List Byte :=
  [0xF0, 0x90, 0x90, 0x90, 0xF0] ++ [0x20, 0x60, 0x20, 0x20, 0x70] ++
  [0xF0, 0x10, 0xF0, 0x80, 0xF0] ++ [0xF0, 0x10, 0xF0, 0x10, 0xF0] ++
  [0x90, 0x90, 0xF0, 0x10, 0x10] ++ [0xF0, 0x80, 0xF0, 0x10, 0xF0] ++
  [0xF0, 0x80, 0xF0, 0x90, 0xF0] ++ [0xF0, 0x10, 0x20, 0x40, 0x40]

/-- Glyphs 8 to F of the standard small font (rule R57). -/
def fontSmallHigh : List Byte :=
  [0xF0, 0x90, 0xF0, 0x90, 0xF0] ++ [0xF0, 0x90, 0xF0, 0x10, 0xF0] ++
  [0xF0, 0x90, 0xF0, 0x90, 0x90] ++ [0xE0, 0x90, 0xE0, 0x90, 0xE0] ++
  [0xF0, 0x80, 0x80, 0x80, 0xF0] ++ [0xE0, 0x90, 0x90, 0x90, 0xE0] ++
  [0xF0, 0x80, 0xF0, 0x80, 0xF0] ++ [0xF0, 0x80, 0xF0, 0x80, 0x80]

/-- FONT_SMALL's default table (rule R57; PRESUMED by the spec from general knowledge, log 8). -/
def fontSmallDefault : Vector Byte 80 := ⟨(fontSmallLow ++ fontSmallHigh).toArray, rfl⟩

/-- Glyphs 0 to 4 of the large font (rule R58). -/
def fontLargeLow : List Byte :=
  [0xFF, 0xFF, 0xC3, 0xC3, 0xC3, 0xC3, 0xC3, 0xC3, 0xFF, 0xFF] ++
  [0x18, 0x78, 0x78, 0x18, 0x18, 0x18, 0x18, 0x18, 0xFF, 0xFF] ++
  [0xFF, 0xFF, 0x03, 0x03, 0xFF, 0xFF, 0xC0, 0xC0, 0xFF, 0xFF] ++
  [0xFF, 0xFF, 0x03, 0x03, 0xFF, 0xFF, 0x03, 0x03, 0xFF, 0xFF] ++
  [0xC3, 0xC3, 0xC3, 0xC3, 0xFF, 0xFF, 0x03, 0x03, 0x03, 0x03]

/-- Glyphs 5 to 9 of the large font (rule R58). -/
def fontLargeHigh : List Byte :=
  [0xFF, 0xFF, 0xC0, 0xC0, 0xFF, 0xFF, 0x03, 0x03, 0xFF, 0xFF] ++
  [0xFF, 0xFF, 0xC0, 0xC0, 0xFF, 0xFF, 0xC3, 0xC3, 0xFF, 0xFF] ++
  [0xFF, 0xFF, 0x03, 0x03, 0x06, 0x0C, 0x18, 0x18, 0x18, 0x18] ++
  [0xFF, 0xFF, 0xC3, 0xC3, 0xFF, 0xFF, 0xC3, 0xC3, 0xFF, 0xFF] ++
  [0xFF, 0xFF, 0xC3, 0xC3, 0xFF, 0xFF, 0x03, 0x03, 0xFF, 0xFF]

/-- FONT_LARGE's default table (rule R58; PRESUMED by the spec from general knowledge, log 8). -/
def fontLargeDefault : Vector Byte 100 := ⟨(fontLargeLow ++ fontLargeHigh).toArray, rfl⟩

/-- The default parameters (rule R9). -/
def defaultParams : Params where
  quirkVfAddExclusion   := true
  zeroFamilyStrict      := false
  skipRegStrict         := false
  pcAlignCheck          := false
  fetchLowCheck         := false
  vfResultOrder         := .unspecified
  shlFlagRaw            := false
  bnnnUsesVx            := false
  loadStoreIncrementsI  := false
  baseVertical          := .fault
  dxy0Wide              := false
  modeSwitchFb          := .unspecified
  baseModeScroll        := .unspecified
  exitMode              := .fault
  fontSmall             := fontSmallDefault
  fontLarge             := fontLargeDefault

end Sys2Proof.Machine
end

