-- ==== Sys2Proof/Syntax.lean ====
section
/-! DEFINITION. The instructions: one constructor per row of spec/opcode_table.json, operands as rule R84 gives them.
The unknown opcode of rule R84 is no row of the table: it is `Decoded.unknown` of Decode.lean. -/

namespace Sys2Proof

/-- A decoded instruction (rule R84). `x`, `y` select registers, `n` is a 4-bit count, `nn` a byte, `a` a 12-bit address. -/
inductive Instr where
  | cls
  | ret
  | scd (n : Fin 16)
  | scr
  | scl
  | exit
  | low
  | high
  | jp (a : BitVec 12)
  | call (a : BitVec 12)
  | seImm (x : Reg) (nn : Byte)
  | sneImm (x : Reg) (nn : Byte)
  | seReg (x y : Reg)
  | ldImm (x : Reg) (nn : Byte)
  | addImm (x : Reg) (nn : Byte)
  | mov (x y : Reg)
  | or (x y : Reg)
  | and (x y : Reg)
  | xor (x y : Reg)
  | add (x y : Reg)
  | sub (x y : Reg)
  | shr (x : Reg)
  | subn (x y : Reg)
  | shl (x : Reg)
  | sneReg (x y : Reg)
  | ldI (a : BitVec 12)
  | jpV0 (a : BitVec 12)
  | rnd (x : Reg) (nn : Byte)
  | drw (x y : Reg) (n : Fin 16)
  | skp (x : Reg)
  | sknp (x : Reg)
  | ldVxDt (x : Reg)
  | ldVxK (x : Reg)
  | ldDtVx (x : Reg)
  | ldStVx (x : Reg)
  | addI (x : Reg)
  | ldF (x : Reg)
  | ldHF (x : Reg)
  | ldB (x : Reg)
  | store (x : Reg)
  | load (x : Reg)
  | storeR (x : Reg)
  | loadR (x : Reg)
deriving DecidableEq, Repr

end Sys2Proof
end

