-- ==== Sys2Proof/WellFormed.lean ====
section
/-! DEFINITION. Which instructions exist under given parameters. The operands' ranges are in their types; the one check
left is EXIT, whose word is an unknown opcode when EXIT_MODE = unknown (rules R77, R182). -/

namespace Sys2Proof

/-- `i` is an instruction of the set that the parameters `p` select. -/
def WellFormed (p : Params) : Instr → Bool
  | .exit => decide (p.exitMode = .fault)
  | .cls | .ret | .scd _ | .scr | .scl | .low | .high => true
  | .jp _ | .call _ | .ldI _ | .jpV0 _ => true
  | .seImm _ _ | .sneImm _ _ | .ldImm _ _ | .addImm _ _ | .rnd _ _ => true
  | .seReg _ _ | .sneReg _ _ | .mov _ _ | .or _ _ | .and _ _ | .xor _ _ | .add _ _ | .sub _ _ | .subn _ _ => true
  | .shr _ | .shl _ => true
  | .drw _ _ _ => true
  | .skp _ | .sknp _ | .ldVxDt _ | .ldVxK _ | .ldDtVx _ | .ldStVx _ | .addI _ | .ldF _ | .ldHF _ => true
  | .ldB _ | .store _ | .load _ | .storeR _ | .loadR _ => true

end Sys2Proof
end

