-- ==== Sys2Proof/Decode.lean ====
section
/-! DEFINITION. Decoding, total on every 16-bit word (rules R72 to R85), and the encoder. A word of no instruction is
rejected by name, as the unknown opcode of rule R81. -/

namespace Sys2Proof

/-- What a word decodes to: the tagged variant of rule R84. -/
inductive Decoded where
  | instr (i : Instr)
  /-- `Unknown(op)` of rules R81 and R85. -/
  | unknown (op : Word)
deriving DecidableEq, Repr

/-- The primary opcode `o = op[15:12]` (rule R72). -/
def opField (op : Word) : BitVec 4 := op.extractLsb' 12 4

/-- The register index `x = op[11:8]` (rule R72). -/
def xField (op : Word) : Reg := (op.extractLsb' 8 4).toFin

/-- The register index `y = op[7:4]` (rule R72). -/
def yField (op : Word) : Reg := (op.extractLsb' 4 4).toFin

/-- The 4-bit immediate `n = op[3:0]` (rule R72). -/
def nField (op : Word) : Fin 16 := (op.extractLsb' 0 4).toFin

/-- The 8-bit immediate `nn = op[7:0]` (rule R72). -/
def nnField (op : Word) : Byte := op.extractLsb' 0 8

/-- The 12-bit address `nnn = op[11:0]` (rule R72). -/
def nnnField (op : Word) : BitVec 12 := op.extractLsb' 0 12

/-- Family 0, once the x nibble has passed its check (rule R77). -/
def decodeZero (p : Params) (op : Word) : Decoded :=
  match (nnField op).toNat with
  | 0xE0 => .instr .cls
  | 0xEE => .instr .ret
  | 0xFB => .instr .scr
  | 0xFC => .instr .scl
  | 0xFD => if p.exitMode = .unknown then .unknown op else .instr .exit
  | 0xFE => .instr .low
  | 0xFF => .instr .high
  | _ => if yField op = 0xC then .instr (.scd (nField op)) else .unknown op

/-- Family 8, dispatched on n (rule R78). -/
def decodeAlu (op : Word) : Decoded :=
  match (nField op).val with
  | 0x0 => .instr (.mov (xField op) (yField op))
  | 0x1 => .instr (.or (xField op) (yField op))
  | 0x2 => .instr (.and (xField op) (yField op))
  | 0x3 => .instr (.xor (xField op) (yField op))
  | 0x4 => .instr (.add (xField op) (yField op))
  | 0x5 => .instr (.sub (xField op) (yField op))
  | 0x6 => .instr (.shr (xField op))
  | 0x7 => .instr (.subn (xField op) (yField op))
  | 0xE => .instr (.shl (xField op))
  | _ => .unknown op

/-- Family E, dispatched on nn (rule R79). -/
def decodeKey (op : Word) : Decoded :=
  match (nnField op).toNat with
  | 0x9E => .instr (.skp (xField op))
  | 0xA1 => .instr (.sknp (xField op))
  | _ => .unknown op

/-- Family F, dispatched on nn (rule R79). -/
def decodeMisc (op : Word) : Decoded :=
  match (nnField op).toNat with
  | 0x07 => .instr (.ldVxDt (xField op))
  | 0x0A => .instr (.ldVxK (xField op))
  | 0x15 => .instr (.ldDtVx (xField op))
  | 0x18 => .instr (.ldStVx (xField op))
  | 0x1E => .instr (.addI (xField op))
  | 0x29 => .instr (.ldF (xField op))
  | 0x30 => .instr (.ldHF (xField op))
  | 0x33 => .instr (.ldB (xField op))
  | 0x55 => .instr (.store (xField op))
  | 0x65 => .instr (.load (xField op))
  | 0x75 => .instr (.storeR (xField op))
  | 0x85 => .instr (.loadR (xField op))
  | _ => .unknown op

/-- `decode(op)` of rule R85, under the parameters `p`; it reads nothing else of the machine. -/
def decode (p : Params) (op : Word) : Decoded :=
  match (opField op).toNat with
  | 0x0 => if p.zeroFamilyStrict ∧ xField op ≠ 0 then .unknown op else decodeZero p op
  | 0x1 => .instr (.jp (nnnField op))
  | 0x2 => .instr (.call (nnnField op))
  | 0x3 => .instr (.seImm (xField op) (nnField op))
  | 0x4 => .instr (.sneImm (xField op) (nnField op))
  | 0x5 => if p.skipRegStrict ∧ nField op ≠ 0 then .unknown op else .instr (.seReg (xField op) (yField op))
  | 0x6 => .instr (.ldImm (xField op) (nnField op))
  | 0x7 => .instr (.addImm (xField op) (nnField op))
  | 0x8 => decodeAlu op
  | 0x9 => if p.skipRegStrict ∧ nField op ≠ 0 then .unknown op else .instr (.sneReg (xField op) (yField op))
  | 0xA => .instr (.ldI (nnnField op))
  | 0xB => .instr (.jpV0 (nnnField op))
  | 0xC => .instr (.rnd (xField op) (nnField op))
  | 0xD => .instr (.drw (xField op) (yField op) (nField op))
  | 0xE => decodeKey op
  | _ => decodeMisc op

/-- The opcode formed from the byte at `pc` and the byte after it: `(high << 8) | low`, big-endian (rules R52, R71). -/
def wordOfBytes (hi lo : Byte) : Word := hi ++ lo

/-- The high byte of an opcode, which is stored at the lower address (rule R52). -/
def highByte (op : Word) : Byte := op.extractLsb' 8 8

/-- The low byte of an opcode, stored at the next address (rule R52). -/
def lowByte (op : Word) : Byte := op.extractLsb' 0 8

/-- Decodes the first two bytes at an address and answers the bytes left; `none` where fewer than two are given (every
instruction is exactly two bytes, rule R70). -/
def decodeBytes (p : Params) : List Byte → Option (Decoded × List Byte)
  | hi :: lo :: rest => some (decode p (wordOfBytes hi lo), rest)
  | _ => none

/-- The nibble of a register index or a count. -/
def nibble (x : Fin 16) : BitVec 4 := BitVec.ofFin x

/-- Format A of rule R74: `o nnn`. -/
def encodeA (o : BitVec 4) (a : BitVec 12) : Word := o ++ a

/-- Formats XI and XS of rule R74: `o x nn`. -/
def encodeX (o : BitVec 4) (x : Reg) (nn : Byte) : Word := o ++ (nibble x ++ nn)

/-- Formats XY, XYS and XYN of rule R74: `o x y n`. -/
def encodeXY (o : BitVec 4) (x y : Reg) (n : Fin 16) : Word := o ++ (nibble x ++ (nibble y ++ nibble n))

/-- The word of an instruction, from the encodings of rules R74 to R79. The bits that the decoder ignores (`_` in rule
R74) are written 0: y of SHR and SHL as rule R83 says, x of family 0 and n of 5xy_ and 9xy_ by DESIGN CHOICE (log 12). -/
def encode : Instr → Word
  | .cls         => encodeX 0x0 0 0xE0
  | .ret         => encodeX 0x0 0 0xEE
  | .scd n       => encodeXY 0x0 0 0xC n
  | .scr         => encodeX 0x0 0 0xFB
  | .scl         => encodeX 0x0 0 0xFC
  | .exit        => encodeX 0x0 0 0xFD
  | .low         => encodeX 0x0 0 0xFE
  | .high        => encodeX 0x0 0 0xFF
  | .jp a        => encodeA 0x1 a
  | .call a      => encodeA 0x2 a
  | .seImm x nn  => encodeX 0x3 x nn
  | .sneImm x nn => encodeX 0x4 x nn
  | .seReg x y   => encodeXY 0x5 x y 0
  | .ldImm x nn  => encodeX 0x6 x nn
  | .addImm x nn => encodeX 0x7 x nn
  | .mov x y     => encodeXY 0x8 x y 0x0
  | .or x y      => encodeXY 0x8 x y 0x1
  | .and x y     => encodeXY 0x8 x y 0x2
  | .xor x y     => encodeXY 0x8 x y 0x3
  | .add x y     => encodeXY 0x8 x y 0x4
  | .sub x y     => encodeXY 0x8 x y 0x5
  | .shr x       => encodeXY 0x8 x 0 0x6
  | .subn x y    => encodeXY 0x8 x y 0x7
  | .shl x       => encodeXY 0x8 x 0 0xE
  | .sneReg x y  => encodeXY 0x9 x y 0
  | .ldI a       => encodeA 0xA a
  | .jpV0 a      => encodeA 0xB a
  | .rnd x nn    => encodeX 0xC x nn
  | .drw x y n   => encodeXY 0xD x y n
  | .skp x       => encodeX 0xE x 0x9E
  | .sknp x      => encodeX 0xE x 0xA1
  | .ldVxDt x    => encodeX 0xF x 0x07
  | .ldVxK x     => encodeX 0xF x 0x0A
  | .ldDtVx x    => encodeX 0xF x 0x15
  | .ldStVx x    => encodeX 0xF x 0x18
  | .addI x      => encodeX 0xF x 0x1E
  | .ldF x       => encodeX 0xF x 0x29
  | .ldHF x      => encodeX 0xF x 0x30
  | .ldB x       => encodeX 0xF x 0x33
  | .store x     => encodeX 0xF x 0x55
  | .load x      => encodeX 0xF x 0x65
  | .storeR x    => encodeX 0xF x 0x75
  | .loadR x     => encodeX 0xF x 0x85

/-- The bits of an instruction's word that are compared: the `mask` column of spec/opcode_table.json (also rules R102 to
R241). -/
def opcodeMask : Instr → Word
  | .cls | .ret | .scr | .scl | .exit | .low | .high => 0xF0FF
  | .scd _ => 0xF0F0
  | .jp _ | .call _ | .ldI _ | .jpV0 _ => 0xF000
  | .seImm _ _ | .sneImm _ _ | .ldImm _ _ | .addImm _ _ | .rnd _ _ => 0xF000
  | .seReg _ _ | .sneReg _ _ => 0xF000
  | .mov _ _ | .or _ _ | .and _ _ | .xor _ _ | .add _ _ | .sub _ _ | .shr _ | .subn _ _ | .shl _ => 0xF00F
  | .drw _ _ _ => 0xF000
  | .skp _ | .sknp _ | .ldVxDt _ | .ldVxK _ | .ldDtVx _ | .ldStVx _ | .addI _ | .ldF _ | .ldHF _ => 0xF0FF
  | .ldB _ | .store _ | .load _ | .storeR _ | .loadR _ => 0xF0FF

/-- The value of the compared bits: the `match` column of spec/opcode_table.json. -/
def opcodeMatch : Instr → Word
  | .cls => 0x00E0 | .ret => 0x00EE | .scd _ => 0x00C0 | .scr => 0x00FB | .scl => 0x00FC
  | .exit => 0x00FD | .low => 0x00FE | .high => 0x00FF
  | .jp _ => 0x1000 | .call _ => 0x2000 | .seImm _ _ => 0x3000 | .sneImm _ _ => 0x4000 | .seReg _ _ => 0x5000
  | .ldImm _ _ => 0x6000 | .addImm _ _ => 0x7000
  | .mov _ _ => 0x8000 | .or _ _ => 0x8001 | .and _ _ => 0x8002 | .xor _ _ => 0x8003 | .add _ _ => 0x8004
  | .sub _ _ => 0x8005 | .shr _ => 0x8006 | .subn _ _ => 0x8007 | .shl _ => 0x800E
  | .sneReg _ _ => 0x9000 | .ldI _ => 0xA000 | .jpV0 _ => 0xB000 | .rnd _ _ => 0xC000 | .drw _ _ _ => 0xD000
  | .skp _ => 0xE09E | .sknp _ => 0xE0A1
  | .ldVxDt _ => 0xF007 | .ldVxK _ => 0xF00A | .ldDtVx _ => 0xF015 | .ldStVx _ => 0xF018 | .addI _ => 0xF01E
  | .ldF _ => 0xF029 | .ldHF _ => 0xF030 | .ldB _ => 0xF033 | .store _ => 0xF055 | .load _ => 0xF065
  | .storeR _ => 0xF075 | .loadR _ => 0xF085

/-- The bits of an instruction's word that the decoder does not read (`_` in rule R74) under the default parameters. -/
def ignoredBits : Instr → Word
  | .cls | .ret | .scd _ | .scr | .scl | .exit | .low | .high => 0x0F00
  | .seReg _ _ | .sneReg _ _ => 0x000F
  | .shr _ | .shl _ => 0x00F0
  | .jp _ | .call _ | .ldI _ | .jpV0 _ => 0
  | .seImm _ _ | .sneImm _ _ | .ldImm _ _ | .addImm _ _ | .rnd _ _ => 0
  | .mov _ _ | .or _ _ | .and _ _ | .xor _ _ | .add _ _ | .sub _ _ | .subn _ _ => 0
  | .drw _ _ _ => 0
  | .skp _ | .sknp _ | .ldVxDt _ | .ldVxK _ | .ldDtVx _ | .ldStVx _ | .addI _ | .ldF _ | .ldHF _ => 0
  | .ldB _ | .store _ | .load _ | .storeR _ | .loadR _ => 0

/-- The instruction that the decoder reads, under the default parameters, from the word whose bits are `w` (bits at and
above `nbits` are 0); the word is laid out big-endian, as memory holds it (rule R52). -/
def decodeTableWord (nbits w : Nat) : Option Instr :=
  let op : Word := BitVec.ofNat 16 (w % 2 ^ nbits)
  match decodeBytes Machine.defaultParams [highByte op, lowByte op] with
  | some (.instr i, _) => some i
  | some (.unknown _, _) => none
  | none => none

end Sys2Proof
end

