-- ==== Sys2Proof/Machine/State.lean ====
section
/-! DEFINITION. The machine's state as plain data: every component of rule R20, and beside them the model's own fields
(the parameters, the host's calls, the step's random byte and report, the draw counter), and the state after reset. -/

namespace Sys2Proof.Machine

/-- The fault reasons of rule R271, each with its recorded value. A fault is a NEXT state: the step latches it in
`State.fault` as rule R272 says, and `Host.Outcome.fault` is never answered (log 6). Safe: past a fault the instance is
stuck, as the spec says (rule R273). -/
inductive Fault where
  /-- Code 1: CALL with sp = 16, at the CALL's address (rule R103). -/
  | stackOverflow (pc : Word)
  /-- Code 2: RET with sp = 0, at the RET's address (rule R104). -/
  | stackUnderflow (pc : Word)
  /-- Code 3: a fetch, DRW, LD B, LD [I] or LD Vx,[I] past 0xFFF; the first address above 0xFFF (rules R54, R55, R243). -/
  | memoryOutOfRange (a : Nat)
  /-- Code 4: a fetch at an odd pc, only if PC_ALIGN_CHECK (rule R55). -/
  | misalignedFetch (pc : Word)
  /-- Code 5: a fetch at pc < 0x200, only if FETCH_LOW_CHECK (rule R59). -/
  | lowFetch (pc : Word)
  /-- Code 6: SKP or SKNP with V[x] > 15; the value of V[x] (rule R212). -/
  | keyIndexOutOfRange (k : Byte)
  /-- Code 7: LD R or LD Vx,R with x > 7 (rules R240, R241). -/
  | auxIndexOutOfRange (x : Reg)
  /-- Code 8: DRW in base mode past row 31, only if BASE_VERTICAL = fault; the value of V[y] (rule R173). -/
  | baseRowOutOfRange (vy : Byte)
  /-- Code 9: EXIT, only if EXIT_MODE = fault; its address (rule R182). -/
  | exitUnmodelled (pc : Word)
deriving DecidableEq, Repr

/-- Why exec could have no meaning for an instruction. Every instruction has one, so nothing raises it. -/
inductive Refusal where
  /-- Raised by an arm of exec whose instruction has no meaning yet: none has been left. Safe: the run stops. -/
  | notModelled (mnemonic : String)
deriving DecidableEq, Repr

/-- The engine's control state (rule R32). -/
inductive Ctl where
  | running
  /-- The key wait of rules R213 and R214, with the destination register. -/
  | awaitingKey (x : Reg)
deriving DecidableEq, Repr

/-- What a host call returns beside the state (rule R288): an output, held so that it can be spoken of (log 5). -/
inductive Report where
  | ok
  /-- The non-fatal diagnostic of rule R274: the word and its address. -/
  | unknownOpcode (op pc : Word)
  /-- A step that faulted, or a step on a faulted state (rules R100, R112). -/
  | faulted (r : Fault)
  /-- A load that was refused (rule R275), with the image's length. -/
  | imageTooLarge (len : Nat)
deriving DecidableEq, Repr

/-- A call of the host that may change the state (rules R288, R305). -/
inductive HostCall where
  /-- One step, with the key snapshot and the random byte supplied to it (rule R100). -/
  | step (keyIn : BitVec 16) (rnd : Byte)
  /-- The timer tick (rule R280). -/
  | tick
  /-- The render collaborator clears the dirty flag (rule R283). -/
  | clearDirty
  /-- Reset with a program image (rule R302). -/
  | reset (image : List Byte)
deriving DecidableEq, Repr

/-- Memory, in one canonical form (Ops.lean's `Memory.wf`): addresses strictly rising, and no entry equal to what an
unlisted address reads as, which is the contents at construction with no image (rules R35, R300, log 9). -/
abbrev Memory := List Host.Cell

/-- The machine's state. The first fifteen fields are the components of rule R20, under the spec's names; "Nothing else
is architectural state". The last five are the model's own. -/
structure State where
  /-- `mem[0..4095]` (rules R20, R50). -/
  mem    : Memory
  /-- `V[0..15]` (rule R22). -/
  V      : Vector Byte 16
  /-- The index register (rule R26). -/
  I      : Word
  /-- The program counter (rule R25). -/
  pc     : Word
  /-- `stack[0..15]` (rule R27). -/
  stack  : Vector Word 16
  /-- The number of occupied stack entries, 0 to 16 (rule R27). -/
  sp     : Fin 17
  /-- The delay timer (rule R28). -/
  DT     : Byte
  /-- The sound timer (rule R28). -/
  ST     : Byte
  /-- The key snapshot: bit `k` is logical key `k` (rules R30, R282). -/
  keys   : BitVec 16
  /-- The framebuffer store (rule R31). -/
  fb     : Framebuffer
  /-- Extended mode (rule R32). -/
  ext    : Bool
  /-- `aux[0..7]`, the RPL flags (rule R29). -/
  aux    : Vector Byte 8
  /-- The control state (rule R32). -/
  ctl    : Ctl
  /-- The framebuffer-dirty flag (rules R32, R183). -/
  dirty  : Bool
  /-- The fault latch (rule R270). -/
  fault  : Option Fault
  /-- The model's own: the parameters of rule R9, fixed at construction (rule R300, log 1). -/
  params : Params
  /-- The model's own: the random byte supplied to the step in progress (rule R100, log 4). -/
  rnd    : Byte
  /-- The model's own: what the last step or load returned beside the state (log 5). -/
  report : Report
  /-- The model's own: the host's calls still to come (rule R305, log 2). -/
  pending : List HostCall
  /-- The model's own: how many free values have been drawn (log 3). -/
  draws  : Nat
deriving DecidableEq, Repr

/-- What a step or a meaning answers. -/
abbrev Result := Host.Outcome State Fault Refusal

/-- The state after construction (rule R35) with no program image and the default parameters: memory with nothing
listed reads as the fonts and zeros. The reset values that the spec decides, and those of the model's own fields, are in
log 7. -/
def State.reset : State where
  mem     := []
  V       := Vector.replicate 16 0
  I       := 0
  pc      := 0x200
  stack   := Vector.replicate 16 0
  sp      := 0
  DT      := 0
  ST      := 0
  keys    := 0
  fb      := Vector.replicate 64 0
  ext     := false
  aux     := Vector.replicate 8 0
  ctl     := .running
  dirty   := false
  fault   := none
  params  := defaultParams
  rnd     := 0
  report  := .ok
  pending := []
  draws   := 0

end Sys2Proof.Machine
end

