-- ==== Sys2Proof/Machine/Ops.lean ====
section
/-! DEFINITION. The named operations over memory, registers, the framebuffer and the program counter, taking a fault, and
the host's operations of rule R288 other than the step. -/

namespace Sys2Proof.Machine

/-! ### Memory -/

/-- What an address reads as at construction with no image: FONT_SMALL at 0x000, FONT_LARGE at 0x050, zero elsewhere
(rules R35, R56, R300). -/
def initialByte (p : Params) (a : Nat) : Byte :=
  if h : a < 80 then p.fontSmall[a]
  else if h' : a < 180 then p.fontLarge[a - 80]
  else 0

/-- The byte of a memory at an address, where `d` is what unlisted addresses read as. -/
def Memory.read (d : Nat → Byte) : Memory → Nat → Byte
  | [], a => d a
  | (k, v) :: m, a => if k = a then v else Memory.read d m a

/-- Stores a byte and keeps the canonical form. -/
def Memory.write (d : Nat → Byte) : Memory → Nat → Byte → Memory
  | [], a, b => if b = d a then [] else [(a, b)]
  | (k, v) :: m, a, b =>
    if a < k then (if b = d a then (k, v) :: m else (a, b) :: (k, v) :: m)
    else if a = k then (if b = d a then m else (a, b) :: m)
    else (k, v) :: Memory.write d m a b

/-- The canonical form from address `lo` on: addresses rising, all inside 0x000-0xFFF, no entry that says what an
unlisted address would say. -/
def Memory.wfFrom (d : Nat → Byte) : Nat → Memory → Bool
  | _, [] => true
  | lo, (k, v) :: m => decide (lo ≤ k) && decide (k ≤ 0xFFF) && decide (v ≠ d k) && Memory.wfFrom d (k + 1) m

/-- The canonical form of memory. -/
def Memory.wf (d : Nat → Byte) (m : Memory) : Bool := Memory.wfFrom d 0 m

/-- `MemRead(a, 1)` (rule R13). -/
def State.readByte (s : State) (a : Nat) : Byte := Memory.read (initialByte s.params) s.mem a

/-- `MemWrite(a, 1, b)` (rule R13); an access above 0xFFF "is not performed" (rule R54). No instruction comes to it there:
each checks its whole range first (rule R243, log 11). -/
def State.writeByte (s : State) (a : Nat) (b : Byte) : State :=
  if a ≤ 0xFFF then { s with mem := Memory.write (initialByte s.params) s.mem a b } else s

/-- One-byte stores at consecutive ascending addresses (rule R53). -/
def State.writeBytes (s : State) (a : Nat) : List Byte → State
  | [] => s
  | b :: bs => (s.writeByte a b).writeBytes (a + 1) bs

/-- `I`-relative and fetch accesses end at 0xFFF (rule R51). -/
def lastAddress : Nat := 0xFFF

/-- The range check of rule R243 for the `m` bytes at `I`: the lowest address above 0xFFF, if there is one. -/
def rangeFault (i : Word) (m : Nat) : Option Fault :=
  if i.toNat + m - 1 > lastAddress then some (.memoryOutOfRange (max i.toNat 0x1000)) else none

/-! ### Registers -/

/-- `V[x]` (rule R12). -/
def State.v (s : State) (x : Reg) : Byte := s.V[x]

/-- `V[x] <- b` (rule R12). -/
def State.setV (s : State) (x : Reg) (b : Byte) : State := { s with V := s.V.set x b }

/-- `VF`, the flag register (rule R23). -/
def vf : Reg := 15

/-- One free byte, and the counter advanced (log 3). -/
def State.drawByte (s : State) : Byte × State := (Config.freeByte s.draws, { s with draws := s.draws + 1 })

/-! ### The program counter -/

/-- The pc disposition of rule R101. -/
inductive Disposition where
  | advance | skip | jump (t : Word) | hold
deriving DecidableEq, Repr

/-- The new pc of rule R101. The sum does not pass 16 bits in a step, since a fetch succeeds only at pc ≤ 0xFFE (log 10). -/
def nextPc (pc : Word) : Disposition → Word
  | .advance => pc + 2
  | .skip => pc + 4
  | .jump t => t
  | .hold => pc

/-- Ends an instruction: its effect is done in `s`, and its disposition is applied to `pc` (rule R101). -/
def State.finish (s : State) (d : Disposition) : Result := .next { s with pc := nextPc s.pc d }

/-! ### Faults -/

/-- Taking a fault: `fault <- some(r)` and the report; nothing else changes, for every rule checks its fault conditions
before its first effect (rules R14, R272). There is no vector, no saved state and no return (rules R278, R279): only
construction and reset clear the latch. -/
def State.takeFault (s : State) (r : Fault) : State := { s with fault := some r, report := .faulted r }

/-- The numeric code of a fault's reason, the first column of rule R271's table: "for models and test reports". -/
def Fault.code : Fault → Nat
  | .stackOverflow _ => 1
  | .stackUnderflow _ => 2
  | .memoryOutOfRange _ => 3
  | .misalignedFetch _ => 4
  | .lowFetch _ => 5
  | .keyIndexOutOfRange _ => 6
  | .auxIndexOutOfRange _ => 7
  | .baseRowOutOfRange _ => 8
  | .exitUnmodelled _ => 9

/-- `raise r` (rule R14). -/
def raise (r : Fault) (s : State) : Result := .next (s.takeFault r)

/-- Runs `effect` if no fault condition holds, and raises the fault otherwise (rules R272, R276). -/
def guarded (f : Option Fault) (s : State) (effect : State → Result) : Result :=
  match f with
  | some r => raise r s
  | none => effect s

/-! ### The framebuffer -/

/-- `FB[y][x]` (rule R31); cells outside the 64 x 128 store are clear. -/
def Framebuffer.pixel (fb : Framebuffer) (y x : Nat) : Bool :=
  if h : y < 64 then fb[y].getLsbD x else false

/-- The first `k` pixels of a row. -/
def rowOf (f : Nat → Bool) : Nat → Row
  | 0 => 0
  | k + 1 => if f k then rowOf f k ||| BitVec.twoPow 128 k else rowOf f k

/-- The framebuffer whose cell `FB[y][x]` is `f y x`. -/
@[irreducible] def Framebuffer.build (f : Nat → Nat → Bool) : Framebuffer := Vector.ofFn fun y => rowOf (f y.val) 128

/-- The framebuffer with every cell 0. -/
def Framebuffer.blank : Framebuffer := Vector.replicate 64 0

/-- `FB[y][x] <- FB[y][x] XOR 1`; nothing outside the store. -/
def Framebuffer.toggle (fb : Framebuffer) (y x : Nat) : Framebuffer :=
  if h : y < 64 then fb.set y (fb[y] ^^^ BitVec.twoPow 128 x) else fb

/-- Every cell an independent draw (rules R178, R181, log 3). -/
@[irreducible] def Framebuffer.free (k : Nat) : Framebuffer := Vector.ofFn fun y => Config.freeRow k y.val

/-- The width of the active window (rule R31). -/
def activeWidth (ext : Bool) : Nat := if ext then 128 else 64

/-- The height of the active window (rule R31). -/
def activeHeight (ext : Bool) : Nat := if ext then 64 else 32

/-! ### The host's operations (rule R288) -/

/-- A timer counts down and floors at zero (rule R280). -/
def countDown (t : Byte) : Byte := if t.toNat > 0 then t - 1 else 0

/-- `tick(s)` (rule R280). -/
def State.tick (s : State) : State := { s with DT := countDown s.DT, ST := countDown s.ST }

/-- `isDirty(s)` (rule R283). -/
def State.isDirty (s : State) : Bool := s.dirty

/-- `clearDirty(s)` (rule R283). -/
def State.clearDirty (s : State) : State := { s with dirty := false }

/-- `frame(s)`: the active window, row by row (rule R283). -/
def State.frame (s : State) : List (List Bool) :=
  (List.range (activeHeight s.ext)).map fun y => (List.range (activeWidth s.ext)).map fun x => Framebuffer.pixel s.fb y x

/-- `soundOn(s)` (rule R284). -/
def State.soundOn (s : State) : Bool := decide (s.ST ≠ 0)

/-- `faultOf(s)` (rules R270, R288). -/
def State.faultOf (s : State) : Option Fault := s.fault

/-- The address at which a program image is loaded and the first fetch is made (rule R8). -/
def programStart : Nat := 0x200

/-- The longest image the load accepts: 4096 - 0x200 bytes (rules R8, R275). -/
def maxImage : Nat := 4096 - 0x200

/-- `construct(image, params)` (rule R300): the state, or the length of an image too long (rule R275). -/
def construct (p : Params) (image : List Byte) : Except Nat State :=
  if image.length > maxImage then .error image.length
  else .ok (({ State.reset with params := p }).writeBytes programStart image)

/-- `reset(s, image)` (rule R302): construction again, with the same parameters, and `aux` kept. The model's own fields
that belong to the host's run (its calls to come, the draw counter) go on (log 15). -/
def State.resetWith (s : State) (image : List Byte) : Except Nat State :=
  match construct s.params image with
  | .error len => .error len
  | .ok s' => .ok { s' with aux := s.aux, pending := s.pending, draws := s.draws }

/-- A host's reset call: the new state, or `s` as it was with the load's error reported (rules R275, R302, log 15). -/
def State.hostReset (s : State) (image : List Byte) : State :=
  match s.resetWith image with
  | .error len => { s with report := .imageTooLarge len }
  | .ok s' => s'

end Sys2Proof.Machine
end

