-- ==== Sys2Proof/Machine/Operands.lean ====
section
/-! DEFINITION. How operands are read: addresses and bytes, the registers of an inclusive range, and the geometry and
placement of sprites (rules R73, R171, R172). -/

namespace Sys2Proof.Machine

/-- A 12-bit address, zero-extended (rule R73). -/
def addressOf (a : BitVec 12) : Word := a.setWidth 16

/-- A register's byte, zero-extended to the width of `I` or `pc` (rule R11). -/
def wide (b : Byte) : Word := b.setWidth 16

/-- The register whose value JP V0 adds: V0, or the register of `op[11:8]` if BNNN_USES_VX (rule R105). -/
def jumpRegister (p : Params) (a : BitVec 12) : Reg := if p.bnnnUsesVx then (a.extractLsb' 8 4).toFin else 0

/-- The values of V0..Vx, inclusive, in ascending order (rule R73). -/
def State.regsUpTo (s : State) (x : Reg) : List Byte := s.V.toList.take (x.val + 1)

/-- V with V0..Vx taken from `f`, ascending (rules R239, R241). -/
def State.loadUpTo (s : State) (x : Reg) (f : Nat → Byte) : State :=
  { s with V := Vector.ofFn fun k => if k.val ≤ x.val then f k.val else s.V[k] }

/-- `aux[k]`, for k in 0..7 (rule R29). -/
def State.auxByte (s : State) (k : Nat) : Byte := if h : k < 8 then s.aux[k] else 0

/-- `aux[0..x] <- V[0..x]`, for x in 0..7 (rule R240). -/
def State.saveAux (s : State) (x : Reg) : State :=
  { s with aux := Vector.ofFn fun k => if k.val ≤ x.val then s.V[k.val] else s.aux[k] }

/-- `I <- I +16 (x + 1)` if LOAD_STORE_INCREMENTS_I (rules R238, R239). -/
def State.blockIncrement (s : State) (x : Reg) : State :=
  if s.params.loadStoreIncrementsI then { s with I := s.I + BitVec.ofNat 16 (x.val + 1) } else s

/-- The decimal digits of a byte: hundreds, tens, ones (rule R237). -/
def digitsOf (v : Byte) : List Byte :=
  [BitVec.ofNat 8 (v.toNat / 100), BitVec.ofNat 8 (v.toNat / 10 % 10), BitVec.ofNat 8 (v.toNat % 10)]

/-- The rows of a sprite: n, and 16 when n = 0 (rule R173). -/
def spriteRows (n : Fin 16) : Nat := if n = 0 then 16 else n.val

/-- The bytes of a sprite's row: two for the 0-height sprite in extended mode if DXY0_WIDE, one otherwise (rule R173). -/
def State.spriteRowBytes (s : State) (n : Fin 16) : Nat := if s.ext ∧ n = 0 ∧ s.params.dxy0Wide then 2 else 1

/-- The bytes of a sprite (rule R173). -/
def State.spriteLength (s : State) (n : Fin 16) : Nat := spriteRows n * s.spriteRowBytes n

/-- The bit of the sprite at row `r` and column `c`, in a sprite of `bpr` bytes a row: bit 7 of a byte is leftmost (rule
R171). -/
def State.spriteBit (s : State) (bpr r c : Nat) : Bool :=
  (s.readByte (s.I.toNat + (r * bpr + c / 8))).getLsbD (7 - c % 8)

/-- `place(ax, ay)` (rule R172): the cell `(y, x)` of a sprite pixel at column `ax` and row `ay`, or none if it is
dropped. -/
def place (ext : Bool) (bv : BaseVertical) (ax ay : Nat) : Option (Nat × Nat) :=
  if ext then
    if ax < 128 ∧ ay < 64 then some (ay, ax) else none
  else
    match bv with
    | .wrap => some (ay % 32, ax % 64)
    | .clip => if ay < 32 then some (ay, ax % 64) else none
    | .fault => some (ay, ax % 64)

/-- The cells of the set sprite pixels that are placed, in the order of rule R173's loop, for a sprite at column `px` and
row `py`. -/
def State.spriteCells (s : State) (px py : Nat) (n : Fin 16) : List (Nat × Nat) :=
  (List.range (spriteRows n)).flatMap fun r =>
    (List.range (8 * s.spriteRowBytes n)).filterMap fun c =>
      if s.spriteBit (s.spriteRowBytes n) r c then place s.ext s.params.baseVertical (px + c) (py + r) else none

/-- The fault conditions of DRW, in their order: MemoryOutOfRange before BaseRowOutOfRange (rules R173, R276). -/
def State.drawFault (s : State) (y : Reg) (n : Fin 16) : Option Fault :=
  match rangeFault s.I (s.spriteLength n) with
  | some r => some r
  | none =>
    if s.ext = false ∧ s.params.baseVertical = .fault ∧ (s.v y).toNat + spriteRows n - 1 ≥ 32 then
      some (.baseRowOutOfRange (s.v y))
    else none

/-- The key that a register names (rules R210, R212): its index, or the fault of an index above 15. -/
def keyIndexFault (k : Byte) : Option Fault := if k.toNat ≥ 16 then some (.keyIndexOutOfRange k) else none

/-- The RPL store has 8 bytes: x above 7 is a fault (rules R240, R241). -/
def auxIndexFault (x : Reg) : Option Fault := if x.val ≥ 8 then some (.auxIndexOutOfRange x) else none

end Sys2Proof.Machine
end

