-- ==== Sys2Proof/Machine/ControlFlow.lean ====
section
/-! DEFINITION. Jumps, subroutines and the register skips (40_control_flow.md). -/

namespace Sys2Proof.Machine

/-- Skip if the condition holds, else advance (rules R101, R106). -/
def State.skipIf (s : State) (c : Bool) : Result := s.finish (if c then .skip else .advance)

/-- JP nnn (rule R102). -/
def execJp (a : BitVec 12) (s : State) : Result := s.finish (.jump (addressOf a))

/-- CALL nnn (rule R103): pushes the address after the CALL. -/
def execCall (a : BitVec 12) (s : State) : Result :=
  if h : s.sp.val < 16 then
    ({ s with stack := s.stack.set s.sp.val (s.pc + 2), sp := ⟨s.sp.val + 1, by omega⟩ }).finish (.jump (addressOf a))
  else raise (.stackOverflow s.pc) s

/-- RET (rule R104): the popped entry keeps its stored value. -/
def execRet (s : State) : Result :=
  if h : 0 < s.sp.val then
    ({ s with sp := ⟨s.sp.val - 1, by omega⟩ }).finish (.jump s.stack[s.sp.val - 1])
  else raise (.stackUnderflow s.pc) s

/-- JP V0, nnn (rule R105). -/
def execJpV0 (a : BitVec 12) (s : State) : Result :=
  s.finish (.jump (addressOf a + wide (s.v (jumpRegister s.params a))))

/-- SE Vx, nn (rule R106). -/
def execSeImm (x : Reg) (nn : Byte) (s : State) : Result := s.skipIf (decide (s.v x = nn))

/-- SNE Vx, nn (rule R107). -/
def execSneImm (x : Reg) (nn : Byte) (s : State) : Result := s.skipIf (decide (s.v x ≠ nn))

/-- SE Vx, Vy (rule R108). -/
def execSeReg (x y : Reg) (s : State) : Result := s.skipIf (decide (s.v x = s.v y))

/-- SNE Vx, Vy (rule R109). -/
def execSneReg (x y : Reg) (s : State) : Result := s.skipIf (decide (s.v x ≠ s.v y))

end Sys2Proof.Machine
end

