-- ==== Sys2Proof/Machine/Flags.lean ====
section
/-! DEFINITION. The flags that go into VF: carry, no-borrow, the bit shifted out, collision (rules R23, R137 to R141,
R174), and the order of the result and flag writes (rule R136). -/

namespace Sys2Proof.Machine

/-- A flag as a byte: 1 or 0. -/
def flagByte (b : Bool) : Byte := if b then 1 else 0

/-- Carry: the sum of two bytes passes 255 (rules R137, R145). -/
def carryFlag (a b : Byte) : Byte := flagByte (decide (a.toNat + b.toNat > 255))

/-- No borrow: `minuend >= subtrahend` (rules R138, R140, R145). -/
def noBorrowFlag (minuend subtrahend : Byte) : Byte := flagByte (decide (minuend.toNat ≥ subtrahend.toNat))

/-- The bit shifted out by SHR (rule R139). -/
def shrFlag (a : Byte) : Byte := a &&& 0x01

/-- The bit shifted out by SHL, as 0 or 1, or as 0 or 0x80 if SHL_FLAG_RAW (rule R141). -/
def shlFlag (p : Params) (a : Byte) : Byte := if p.shlFlagRaw then a &&& 0x80 else a >>> 7

/-- `writeRF(x, r, f)` (rule R136). For x = 15 under `unspecified`, VF becomes a free byte. -/
def State.writeRF (s : State) (x : Reg) (r f : Byte) : State :=
  if x ≠ vf then (s.setV x r).setV vf f
  else
    match s.params.vfResultOrder with
    | .unspecified => s.drawByte.2.setV vf s.drawByte.1
    | .flagLast => s.setV vf f
    | .resultLast => s.setV vf r

/-- The collision detector and the XOR of one placed sprite pixel (rules R173, R174). -/
def blit (acc : Framebuffer × Bool) (cell : Nat × Nat) : Framebuffer × Bool :=
  (Framebuffer.toggle acc.1 cell.1 cell.2, acc.2 || Framebuffer.pixel acc.1 cell.1 cell.2)

/-- The framebuffer and `hit` after the placed pixels `cells` of one draw (rule R173). -/
def blitAll (fb : Framebuffer) (cells : List (Nat × Nat)) : Framebuffer × Bool := cells.foldl blit (fb, false)

end Sys2Proof.Machine
end

