-- ==== Sys2Proof/Machine/Display.lean ====
section
/-! DEFINITION. The framebuffer instructions, the mode switches and EXIT (42_display.md). -/

namespace Sys2Proof.Machine

/-- `FB <- fb; dirty <- true` (rule R183). -/
def State.setFb (s : State) (fb : Framebuffer) : State := { s with fb := fb, dirty := true }

/-- Every cell of FB becomes an independent draw, and `dirty <- true` (rules R178, R181). -/
def State.drawFb (s : State) : State := { s with fb := Framebuffer.free s.draws, dirty := true, draws := s.draws + 1 }

/-- CLS (rule R170): the whole store, in either mode. -/
def execCls (s : State) : Result := (s.setFb Framebuffer.blank).finish .advance

/-- DRW Vx, Vy, n (rules R171 to R174). -/
def execDrw (x y : Reg) (n : Fin 16) (s : State) : Result :=
  if s.ext = false ∧ n = 0 then s.finish .advance
  else
    guarded (s.drawFault y n) s fun s =>
      let drawn := blitAll s.fb (s.spriteCells (s.v x).toNat (s.v y).toNat n)
      ((s.setFb drawn.1).setV vf (flagByte drawn.2)).finish .advance

/-- Down by `n` rows inside the window of `w` columns and `h` rows (rules R175, R178). -/
def scrolledDown (n w h : Nat) (fb : Framebuffer) : Framebuffer :=
  Framebuffer.build fun y x =>
    if y < h ∧ x < w then (if y ≥ n then Framebuffer.pixel fb (y - n) x else false) else Framebuffer.pixel fb y x

/-- Right by 4 columns inside the window (rules R176, R178). -/
def scrolledRight (w h : Nat) (fb : Framebuffer) : Framebuffer :=
  Framebuffer.build fun y x =>
    if y < h ∧ x < w then (if x ≥ 4 then Framebuffer.pixel fb y (x - 4) else false) else Framebuffer.pixel fb y x

/-- Left by 4 columns inside the window (rules R177, R178). -/
def scrolledLeft (w h : Nat) (fb : Framebuffer) : Framebuffer :=
  Framebuffer.build fun y x =>
    if y < h ∧ x < w then (if x < w - 4 then Framebuffer.pixel fb y (x + 4) else false) else Framebuffer.pixel fb y x

/-- A scroll, given as a function of the window's width and height: over the whole store in extended mode, and by
BASE_MODE_SCROLL in base mode (rules R175 to R178). -/
def State.scroll (s : State) (f : Nat → Nat → Framebuffer → Framebuffer) : State :=
  if s.ext then s.setFb (f (activeWidth true) (activeHeight true) s.fb)
  else
    match s.params.baseModeScroll with
    | .unspecified => s.drawFb
    | .noop => s
    | .full => s.setFb (f (activeWidth false) (activeHeight false) s.fb)

/-- SCD n (rules R175, R178). -/
def execScd (n : Fin 16) (s : State) : Result := (s.scroll (scrolledDown n.val)).finish .advance

/-- SCR (rules R176, R178). -/
def execScr (s : State) : Result := (s.scroll scrolledRight).finish .advance

/-- SCL (rules R177, R178). -/
def execScl (s : State) : Result := (s.scroll scrolledLeft).finish .advance

/-- `modeSwitchFB(); dirty <- true` (rules R179 to R181). -/
def State.modeSwitch (s : State) : State :=
  match s.params.modeSwitchFb with
  | .unspecified => s.drawFb
  | .keep => s.setFb s.fb
  | .clear => s.setFb Framebuffer.blank

/-- LOW (rule R179). -/
def execLow (s : State) : Result := (({ s with ext := false }).modeSwitch).finish .advance

/-- HIGH (rule R180). -/
def execHigh (s : State) : Result := (({ s with ext := true }).modeSwitch).finish .advance

/-- EXIT (rule R182): the fault is its whole effect. Under EXIT_MODE = unknown the word does not decode to it (log 13). -/
def execExit (s : State) : Result := raise (.exitUnmodelled s.pc) s

end Sys2Proof.Machine
end

