-- ==== Sys2Proof/Machine/Keys.lean ====
section
/-! DEFINITION. The key skips, the key wait and its resolving step (43_keys.md). -/

namespace Sys2Proof.Machine

/-- `keys[k]` in this step's snapshot (rule R215). -/
def State.key (s : State) (k : Nat) : Bool := s.keys.getLsbD k

/-- SKP Vx (rule R210). -/
def execSkp (x : Reg) (s : State) : Result :=
  guarded (keyIndexFault (s.v x)) s fun s => s.skipIf (s.key (s.v x).toNat)

/-- SKNP Vx (rule R211). -/
def execSknp (x : Reg) (s : State) : Result :=
  guarded (keyIndexFault (s.v x)) s fun s => s.skipIf (!s.key (s.v x).toNat)

/-- LD Vx, K (rule R213): enters AwaitingKey; the entering step does not scan the keys. -/
def execLdVxK (x : Reg) (s : State) : Result := ({ s with ctl := .awaitingKey x }).finish .hold

/-- The lowest-indexed pressed key of the snapshot, if any (rule R214). -/
def State.lowestKey (s : State) : Option Nat := (List.range 16).find? s.key

/-- `resolveKey(x)` (rule R214). -/
def State.resolveKey (s : State) (x : Reg) : State :=
  match s.lowestKey with
  | some k => { s.setV x (BitVec.ofNat 8 k) with pc := s.pc + 2, ctl := .running }
  | none => s

end Sys2Proof.Machine
end

