-- ==== Sys2Proof/Machine/RegisterOps.lean ====
section
/-! DEFINITION. The register operations (41_register_ops.md). Each returns `Advance`. -/

namespace Sys2Proof.Machine

/-- LD Vx, nn (rule R130). -/
def execLdImm (x : Reg) (nn : Byte) (s : State) : Result := (s.setV x nn).finish .advance

/-- ADD Vx, nn (rule R131): no flag, and no effect on VF under QUIRK_VF_ADD_EXCLUSION. -/
def execAddImm (x : Reg) (nn : Byte) (s : State) : Result :=
  if x = vf ∧ s.params.quirkVfAddExclusion then s.finish .advance
  else (s.setV x (s.v x + nn)).finish .advance

/-- LD Vx, Vy (rule R132). -/
def execMov (x y : Reg) (s : State) : Result := (s.setV x (s.v y)).finish .advance

/-- OR Vx, Vy (rule R133). -/
def execOr (x y : Reg) (s : State) : Result := (s.setV x (s.v x ||| s.v y)).finish .advance

/-- AND Vx, Vy (rule R134). -/
def execAnd (x y : Reg) (s : State) : Result := (s.setV x (s.v x &&& s.v y)).finish .advance

/-- XOR Vx, Vy (rule R135). -/
def execXor (x y : Reg) (s : State) : Result := (s.setV x (s.v x ^^^ s.v y)).finish .advance

/-- ADD Vx, Vy (rule R137). -/
def execAdd (x y : Reg) (s : State) : Result :=
  (s.writeRF x (s.v x + s.v y) (carryFlag (s.v x) (s.v y))).finish .advance

/-- SUB Vx, Vy: Vx - Vy (rule R138). -/
def execSub (x y : Reg) (s : State) : Result :=
  (s.writeRF x (s.v x - s.v y) (noBorrowFlag (s.v x) (s.v y))).finish .advance

/-- SHR Vx, in place (rule R139). -/
def execShr (x : Reg) (s : State) : Result := (s.writeRF x (s.v x >>> 1) (shrFlag (s.v x))).finish .advance

/-- SUBN Vx, Vy: Vy - Vx (rule R140). -/
def execSubn (x y : Reg) (s : State) : Result :=
  (s.writeRF x (s.v y - s.v x) (noBorrowFlag (s.v y) (s.v x))).finish .advance

/-- SHL Vx, in place (rule R141). -/
def execShl (x : Reg) (s : State) : Result := (s.writeRF x (s.v x <<< 1) (shlFlag s.params (s.v x))).finish .advance

/-- LD I, nnn (rule R143). -/
def execLdI (a : BitVec 12) (s : State) : Result := ({ s with I := addressOf a }).finish .advance

/-- RND Vx, nn (rule R144): the step's random byte under a mask. -/
def execRnd (x : Reg) (nn : Byte) (s : State) : Result := (s.setV x (s.rnd &&& nn)).finish .advance

end Sys2Proof.Machine
end

