-- ==== Sys2Proof/Machine/TimerIo.lean ====
section
/-! DEFINITION. The timer, index, memory-block and RPL instructions (44_timer_io.md). -/

namespace Sys2Proof.Machine

/-- LD Vx, DT (rule R230). -/
def execLdVxDt (x : Reg) (s : State) : Result := (s.setV x s.DT).finish .advance

/-- LD DT, Vx (rule R231). -/
def execLdDtVx (x : Reg) (s : State) : Result := ({ s with DT := s.v x }).finish .advance

/-- LD ST, Vx (rule R232). -/
def execLdStVx (x : Reg) (s : State) : Result := ({ s with ST := s.v x }).finish .advance

/-- ADD I, Vx (rule R234): VF not written, and no effect for x = 15 under QUIRK_VF_ADD_EXCLUSION. -/
def execAddI (x : Reg) (s : State) : Result :=
  if x = vf ∧ s.params.quirkVfAddExclusion then s.finish .advance
  else ({ s with I := s.I + wide (s.v x) }).finish .advance

/-- LD F, Vx (rule R235). -/
def execLdF (x : Reg) (s : State) : Result := ({ s with I := 5 * wide (s.v x &&& 0x0F) }).finish .advance

/-- LD HF, Vx (rule R236). -/
def execLdHF (x : Reg) (s : State) : Result := ({ s with I := 10 * wide (s.v x) + 80 }).finish .advance

/-- LD B, Vx (rule R237). -/
def execLdB (x : Reg) (s : State) : Result :=
  guarded (rangeFault s.I 3) s fun s => (s.writeBytes s.I.toNat (digitsOf (s.v x))).finish .advance

/-- LD [I], Vx (rule R238). -/
def execStore (x : Reg) (s : State) : Result :=
  guarded (rangeFault s.I (x.val + 1)) s fun s =>
    ((s.writeBytes s.I.toNat (s.regsUpTo x)).blockIncrement x).finish .advance

/-- LD Vx, [I] (rule R239). -/
def execLoad (x : Reg) (s : State) : Result :=
  guarded (rangeFault s.I (x.val + 1)) s fun s =>
    ((s.loadUpTo x fun k => s.readByte (s.I.toNat + k)).blockIncrement x).finish .advance

/-- LD R, Vx (rule R240). -/
def execStoreR (x : Reg) (s : State) : Result :=
  guarded (auxIndexFault x) s fun s => (s.saveAux x).finish .advance

/-- LD Vx, R (rule R241). -/
def execLoadR (x : Reg) (s : State) : Result :=
  guarded (auxIndexFault x) s fun s => (s.loadUpTo x s.auxByte).finish .advance

end Sys2Proof.Machine
end

