-- ==== Sys2Proof/Machine/Engine.lean ====
section
/-! DEFINITION. Fetch, the unknown opcode, and one step of the engine (rules R71, R100, R274); and one call of the host
(rules R288, R305). -/

namespace Sys2Proof.Machine

/-- The fetch checks, in the order of rule R276: MisalignedFetch, LowFetch, MemoryOutOfRange (rules R55, R59). -/
def State.fetchFault (s : State) : Option Fault :=
  if s.params.pcAlignCheck ∧ s.pc.toNat % 2 = 1 then some (.misalignedFetch s.pc)
  else if s.params.fetchLowCheck ∧ s.pc.toNat < programStart then some (.lowFetch s.pc)
  else if s.pc.toNat > lastAddress then some (.memoryOutOfRange s.pc.toNat)
  else if s.pc.toNat + 1 > lastAddress then some (.memoryOutOfRange (s.pc.toNat + 1))
  else none

/-- The opcode at `pc`: the byte at `pc` is the high byte (rules R52, R71). -/
def State.fetchWord (s : State) : Word := wordOfBytes (s.readByte s.pc.toNat) (s.readByte (s.pc.toNat + 1))

/-- The unknown opcode (rule R274): a report, then `Advance`; nothing else changes. -/
def execUnknown (op : Word) (s : State) : Result := ({ s with report := .unknownOpcode op s.pc }).finish .advance

/-- Decode, execute and apply the disposition (rule R100). -/
def execWord (op : Word) (s : State) : Result :=
  match decode s.params op with
  | .instr i => exec i s
  | .unknown op => execUnknown op s

/-- The step's inputs are taken in: `keys <- keyIn`, and the random byte for RND; the report is `Ok` until something else
is reported (rules R30, R100). -/
def State.beginStep (s : State) (keyIn : BitVec 16) (rnd : Byte) : State :=
  { s with keys := keyIn, rnd := rnd, report := .ok }

/-- `step(s, keyIn, rnd)` of rule R100. -/
def stepCall (keyIn : BitVec 16) (rnd : Byte) (s : State) : Result :=
  match s.fault with
  | some r => .next { s with report := .faulted r }
  | none =>
    let s := s.beginStep keyIn rnd
    match s.ctl with
    | .awaitingKey x => .next (s.resolveKey x)
    | .running => guarded s.fetchFault s fun s => execWord s.fetchWord s

/-- One call of the host. -/
def hostCall (c : HostCall) (s : State) : Result :=
  match c with
  | .step keyIn rnd => stepCall keyIn rnd s
  | .tick => .next s.tick
  | .clearDirty => .next s.clearDirty
  | .reset image => .next (s.hostReset image)

/-- The host's next call, and the state with that call taken from the schedule. When the schedule is empty the host calls
step, with a free key snapshot and a free random byte (log 2). -/
def State.nextCall (s : State) : HostCall × State :=
  match s.pending with
  | c :: rest => (c, { s with pending := rest })
  | [] => (.step (Config.freeKeys s.draws) (Config.freeRnd s.draws), { s with draws := s.draws + 1 })

/-- Stores an opcode at an address, big-endian (rule R52). -/
def State.storeWord (s : State) (a : Nat) (op : Word) : State := s.writeBytes a [highByte op, lowByte op]

/-- The host's calls from the first step call on. -/
def fromFirstStep : List HostCall → List HostCall
  | [] => []
  | .step keyIn rnd :: rest => .step keyIn rnd :: rest
  | .tick :: rest => fromFirstStep rest
  | .clearDirty :: rest => fromFirstStep rest
  | .reset _ :: rest => fromFirstStep rest

/-- A state whose next host call is a step that fetches: running, no fault latched, and `pc` at 0x200 where the fetch
checks would stop it (log 14). -/
def State.readyToFetch (s : State) : State :=
  { s with
    pc := if s.fetchFault = none then s.pc else BitVec.ofNat 16 programStart
    ctl := .running
    fault := none
    pending := fromFirstStep s.pending }

end Sys2Proof.Machine
end

