-- ==== Sys2Proof/Machine/Step.lean ====
section
/-! DEFINITION. One step of the model, which is one call of the host (rules R288, R305), and the placing of one
instruction where the next step fetches. -/

namespace Sys2Proof.Machine

/-- One call of the host: the next of its schedule, or a step with free inputs (log 2). -/
def step (s : State) : Host.Outcome State Fault Refusal := hostCall s.nextCall.1 s.nextCall.2

/-- `s` with the word whose bits are `w` (bits at and above `nbits` are 0) stored where the next step fetches; it stands
for the load of a program (log 14). -/
def State.withFetchWord (s : State) (nbits w : Nat) : State :=
  s.readyToFetch.storeWord s.readyToFetch.pc.toNat (BitVec.ofNat 16 (w % 2 ^ nbits))

end Sys2Proof.Machine
end

