-- ==== Sys2Proof/Safety.lean ====
section
/-! DEFINITION. The terms in which claims speak of runs: a finite word of host calls (rule R305), a run with no fault,
the invariants of a step, and the frames of instructions. -/

namespace Sys2Proof.Machine

/-- The machine fetches at its next step: no fault is latched and no key is awaited (rules R100, R112, R214). -/
def State.Ready (s : State) : Prop := s.fault = none ∧ s.ctl = .running

/-- The fetch checks pass: both bytes are inside memory, and pc is even and not below 0x200 where the parameters ask it
(rules R55, R59). -/
def State.CanFetch (s : State) : Prop :=
  s.pc.toNat ≤ 0xFFE ∧ (s.params.pcAlignCheck = true → s.pc.toNat % 2 = 0) ∧
    (s.params.fetchLowCheck = true → 0x200 ≤ s.pc.toNat)

/-- The word in memory at `pc`, its high byte first (rules R52, R71). -/
def State.wordAtPc (s : State) : Word := wordOfBytes (s.readByte s.pc.toNat) (s.readByte (s.pc.toNat + 1))

/-- The host's calls, one at a time, in their order (rule R305). -/
def runCalls : List HostCall → State → Result
  | [], s => .next s
  | c :: cs, s =>
    match hostCall c s with
    | .next t => runCalls cs t
    | .fault r => .fault r
    | .refused r => .refused r

/-- A run of `n` calls from `s` latches no fault. -/
def SafeRun (n : Nat) (s : State) : Prop := ∀ k ≤ n, ∃ t, core.run k s = .next t ∧ t.fault = none

/-- What every step keeps: memory in its canonical form, inside 0x000-0xFFF; pc at most 0x10FE and return addresses at
most 0x1000 (rules R25, R101, R103, decision D9); a key wait at an address that was fetched (rule R214). -/
structure State.Inv (s : State) : Prop where
  memory  : Memory.wf (initialByte s.params) s.mem = true
  pc      : s.pc.toNat ≤ 0x10FE
  stack   : ∀ k : Fin 16, s.stack[k].toNat ≤ 0x1000
  waiting : ∀ x, s.ctl = .awaitingKey x → s.pc.toNat ≤ 0xFFE

/-- What a latched fault says of the state (rule R271): its recorded value and the condition that raised it. -/
def State.Explains (s : State) : Fault → Prop
  | .stackOverflow a => a = s.pc ∧ s.sp = 16
  | .stackUnderflow a => a = s.pc ∧ s.sp = 0
  | .memoryOutOfRange a => 0x1000 ≤ a ∧ (a = s.pc.toNat ∨ a = s.pc.toNat + 1 ∨ a = max s.I.toNat 0x1000)
  | .misalignedFetch a => a = s.pc ∧ a.toNat % 2 = 1 ∧ s.params.pcAlignCheck = true
  | .lowFetch a => a = s.pc ∧ a.toNat < 0x200 ∧ s.params.fetchLowCheck = true
  | .keyIndexOutOfRange k => 15 < k.toNat ∧ ∃ x, s.v x = k
  | .auxIndexOutOfRange x => 7 < x.val
  | .baseRowOutOfRange vy => s.ext = false ∧ s.params.baseVertical = .fault ∧ ∃ y, s.v y = vy
  | .exitUnmodelled a => a = s.pc ∧ s.params.exitMode = .fault

/-- A latched fault was raised in the Running state, and its recorded value is explained by the state it left. -/
def State.LatchExplained (s : State) : Prop := ∀ r, s.fault = some r → s.ctl = .running ∧ s.Explains r

/-- From `s` to `t`: only registers in `w` and pc may change; every byte of memory reads as before. -/
structure RegisterFrame (w : Reg → Prop) (s t : State) : Prop where
  registers : ∀ r, ¬ w r → t.v r = s.v r
  memory    : ∀ a, t.readByte a = s.readByte a
  rest      : t = { s with V := t.V, pc := t.pc }

/-- From `s` to `t`: only the framebuffer, the dirty flag and pc may change. -/
structure DisplayFrame (s t : State) : Prop where
  registers : ∀ r, t.v r = s.v r
  memory    : ∀ a, t.readByte a = s.readByte a
  rest      : t = { s with fb := t.fb, dirty := t.dirty, pc := t.pc }

/-- From `s` to `t`: only the `len` bytes of memory at `a`, `I` and pc may change. -/
structure StoreFrame (a len : Nat) (s t : State) : Prop where
  registers : ∀ r, t.v r = s.v r
  memory    : ∀ b, ¬ (a ≤ b ∧ b < a + len) → t.readByte b = s.readByte b
  rest      : t = { s with mem := t.mem, I := t.I, pc := t.pc }

/-- From `s` to `t`: only registers in `w`, pc and the draw counter may change. -/
structure DrawnRegisterFrame (w : Reg → Prop) (s t : State) : Prop where
  registers : ∀ r, ¬ w r → t.v r = s.v r
  memory    : ∀ a, t.readByte a = s.readByte a
  rest      : t = { s with V := t.V, pc := t.pc, draws := t.draws }

/-- `i`, whose destination is VF, has the result `r` and the flag `f` in `s`: VF_RESULT_ORDER says which of them VF holds,
and under `unspecified` VF holds some byte, of which nothing is said (rule R136). -/
def LeavesInVf (i : Instr) (r f : Byte) (s : State) : Prop :=
  ∃ t, exec i s = .next t ∧ t.pc = s.pc + 2 ∧
    (s.params.vfResultOrder = .flagLast → t.v 15 = f ∧ t.draws = s.draws) ∧
    (s.params.vfResultOrder = .resultLast → t.v 15 = r ∧ t.draws = s.draws) ∧
    DrawnRegisterFrame (· = 15) s t

/-- The rows of a sprite (rule R173): n, and 16 for n = 0. -/
def rowsOf (n : Fin 16) : Nat := if n.val = 0 then 16 else n.val

/-- The bytes of a sprite's row (rule R173): two for the 0-height sprite of extended mode if DXY0_WIDE. -/
def rowBytesOf (s : State) (n : Fin 16) : Nat := if s.ext = true ∧ n.val = 0 ∧ s.params.dxy0Wide = true then 2 else 1

/-- A row of the sprite would fall below row 31 in base mode under BASE_VERTICAL = fault (rule R173). -/
def BaseRowFault (s : State) (y : Reg) (n : Fin 16) : Prop :=
  s.ext = false ∧ s.params.baseVertical = .fault ∧ 32 ≤ (s.v y).toNat + rowsOf n - 1

/-- The cell `FB[cy][cx]` is under a set pixel of the sprite at column `px` and row `py`: the placed mask S of rule R174,
with the placement of rule R172. -/
def SpriteCovers (s : State) (px py : Nat) (n : Fin 16) (cy cx : Nat) : Prop :=
  ∃ r c, r < rowsOf n ∧ c < 8 * rowBytesOf s n ∧
    (s.readByte (s.I.toNat + (r * rowBytesOf s n + c / 8))).getLsbD (7 - c % 8) = true ∧
    if s.ext = true then cx = px + c ∧ cy = py + r ∧ cx < 128 ∧ cy < 64
    else cx = (px + c) % 64 ∧
      match s.params.baseVertical with
      | .wrap => cy = (py + r) % 32
      | .clip | .fault => cy = py + r ∧ cy < 32

/-- From `s` to `t`: only VF, the framebuffer, the dirty flag and pc may change. -/
structure DrawFrame (s t : State) : Prop where
  registers : ∀ r, r ≠ 15 → t.v r = s.v r
  memory    : ∀ a, t.readByte a = s.readByte a
  rest      : t = { s with V := t.V, fb := t.fb, dirty := t.dirty, pc := t.pc }

/-- From `s` to `t`: only the framebuffer, the dirty flag, extended mode, the draw counter and pc may change. -/
structure FreeDisplayFrame (s t : State) : Prop where
  registers : ∀ r, t.v r = s.v r
  memory    : ∀ a, t.readByte a = s.readByte a
  rest      : t = { s with fb := t.fb, dirty := t.dirty, ext := t.ext, draws := t.draws, pc := t.pc }

/-- `t` is `s` with the fault `r` taken: the latch and the report, and nothing else (rule R272). -/
def Faults (r : Fault) (s t : State) : Prop := t = { s with fault := some r, report := .faulted r }

/-- The words that a rule's `match` and `mask` select, under every setting of the parameters, decode to the instruction
that the rule's fields name. -/
def WordsDecode (mask : Params → Word) (value : Word) (f : Word → Instr) : Prop :=
  ∀ p op, op &&& mask p = value → decode p op = .instr (f op)

/-- The mask of family 0: x is compared only if ZERO_FAMILY_STRICT (rule R77). -/
def zeroFamilyMask (low : Word) (p : Params) : Word := if p.zeroFamilyStrict then 0xFF00 ||| low else 0xF000 ||| low

/-- The mask of 5xy_ and 9xy_: n is compared only if SKIP_REG_STRICT (rule R80). -/
def skipRegMask (p : Params) : Word := if p.skipRegStrict then 0xF00F else 0xF000

/-- The words of families 8, E and F that no parameter makes an instruction (rules R78, R79, R81, R142, R242). -/
def UnknownUnderAll (op : Word) : Prop :=
  (opField op = 0x8 ∧ ((8 ≤ (nField op).val ∧ (nField op).val ≤ 0xD) ∨ (nField op).val = 0xF)) ∨
  (opField op = 0xE ∧ nnField op ≠ 0x9E ∧ nnField op ≠ 0xA1) ∨
  (opField op = 0xF ∧ nnField op ∉ ([0x07, 0x0A, 0x15, 0x18, 0x1E, 0x29, 0x30, 0x33, 0x55, 0x65, 0x75, 0x85] : List Byte))

/-- The registers that an instruction may write, by the table of rule R24: those its fields name, and VF for the six flag
writers of rule R23. LD Vx, K writes on its resolving step only. -/
def writesRegister (p : Params) : Instr → Reg → Prop
  | .ldImm x _, r | .rnd x _, r => r = x
  | .addImm x _, r => r = x ∧ ¬ (x = vf ∧ p.quirkVfAddExclusion = true)
  | .mov x _, r | .or x _, r | .and x _, r | .xor x _, r => r = x
  | .add x _, r | .sub x _, r | .subn x _, r => r = x ∨ r = vf
  | .shr x, r | .shl x, r => r = x ∨ r = vf
  | .drw _ _ _, r => r = vf
  | .ldVxDt x, r => r = x
  | .load x, r | .loadR x, r => r.val ≤ x.val
  | .cls, _ | .ret, _ | .scd _, _ | .scr, _ | .scl, _ | .exit, _ | .low, _ | .high, _ => False
  | .jp _, _ | .call _, _ | .ldI _, _ | .jpV0 _, _ => False
  | .seImm _ _, _ | .sneImm _ _, _ | .seReg _ _, _ | .sneReg _ _, _ => False
  | .skp _, _ | .sknp _, _ | .ldVxK _, _ | .ldDtVx _, _ | .ldStVx _, _ | .addI _, _ => False
  | .ldF _, _ | .ldHF _, _ | .ldB _, _ | .store _, _ | .storeR _, _ => False

/-- The registers that an instruction may read, by the table of rule R24. -/
def readsRegister (p : Params) : Instr → Reg → Prop
  | .seImm x _, r | .sneImm x _, r | .addImm x _, r => r = x
  | .seReg x y, r | .sneReg x y, r => r = x ∨ r = y
  | .mov _ y, r => r = y
  | .or x y, r | .and x y, r | .xor x y, r | .add x y, r | .sub x y, r | .subn x y, r => r = x ∨ r = y
  | .shr x, r | .shl x, r => r = x
  | .jpV0 a, r => r = jumpRegister p a
  | .drw x y _, r => r = x ∨ r = y
  | .skp x, r | .sknp x, r | .ldDtVx x, r | .ldStVx x, r => r = x
  | .addI x, r => r = x ∧ ¬ (x = vf ∧ p.quirkVfAddExclusion = true)
  | .ldF x, r | .ldHF x, r | .ldB x, r => r = x
  | .store x, r | .storeR x, r => r.val ≤ x.val
  | .cls, _ | .ret, _ | .scd _, _ | .scr, _ | .scl, _ | .exit, _ | .low, _ | .high, _ => False
  | .jp _, _ | .call _, _ | .ldI _, _ | .ldImm _ _, _ | .rnd _ _, _ => False
  | .ldVxDt _, _ | .ldVxK _, _ | .load _, _ | .loadR _, _ => False

/-- The instructions that may write the framebuffer (rules R31, R170 to R181). -/
def writesFramebuffer : Instr → Prop
  | .cls | .drw _ _ _ | .scd _ | .scr | .scl | .low | .high => True
  | .ret | .exit | .jp _ | .call _ | .ldI _ | .jpV0 _ => False
  | .seImm _ _ | .sneImm _ _ | .seReg _ _ | .sneReg _ _ | .ldImm _ _ | .addImm _ _ | .rnd _ _ => False
  | .mov _ _ | .or _ _ | .and _ _ | .xor _ _ | .add _ _ | .sub _ _ | .shr _ | .subn _ _ | .shl _ => False
  | .skp _ | .sknp _ | .ldVxDt _ | .ldVxK _ | .ldDtVx _ | .ldStVx _ | .addI _ | .ldF _ | .ldHF _ => False
  | .ldB _ | .store _ | .load _ | .storeR _ | .loadR _ => False

/-- The instructions that may raise a fault (the table of rule R271). -/
def mayRaise : Instr → Prop
  | .call _ | .ret | .drw _ _ _ | .ldB _ | .store _ | .load _ | .skp _ | .sknp _ | .storeR _ | .loadR _ | .exit => True
  | .cls | .scd _ | .scr | .scl | .low | .high | .jp _ | .ldI _ | .jpV0 _ => False
  | .seImm _ _ | .sneImm _ _ | .seReg _ _ | .sneReg _ _ | .ldImm _ _ | .addImm _ _ | .rnd _ _ => False
  | .mov _ _ | .or _ _ | .and _ _ | .xor _ _ | .add _ _ | .sub _ _ | .shr _ | .subn _ _ | .shl _ => False
  | .ldVxDt _ | .ldVxK _ | .ldDtVx _ | .ldStVx _ | .addI _ | .ldF _ | .ldHF _ => False

/-- The setters of the dirty flag (rule R183). -/
def setsDirty (s : State) : Instr → Prop
  | .cls | .low | .high => True
  | .drw _ _ n => ¬ (s.ext = false ∧ n = 0)
  | .scd _ | .scr | .scl => ¬ (s.ext = false ∧ s.params.baseModeScroll = .noop)
  | .ret | .exit | .jp _ | .call _ | .ldI _ | .jpV0 _ => False
  | .seImm _ _ | .sneImm _ _ | .seReg _ _ | .sneReg _ _ | .ldImm _ _ | .addImm _ _ | .rnd _ _ => False
  | .mov _ _ | .or _ _ | .and _ _ | .xor _ _ | .add _ _ | .sub _ _ | .shr _ | .subn _ _ | .shl _ => False
  | .skp _ | .sknp _ | .ldVxDt _ | .ldVxK _ | .ldDtVx _ | .ldStVx _ | .addI _ | .ldF _ | .ldHF _ => False
  | .ldB _ | .store _ | .load _ | .storeR _ | .loadR _ => False

end Sys2Proof.Machine
end

