-- ==== Sys2Proof/Certificates/Slice0/Obligations.lean ====
section
/-! DEFINITION. The statements for the provers. Each docstring names the rule of spec/ that it formalises; where a clause
rests on a choice that the spec marks as its own, it names that decision. -/

open Sys2Proof Sys2Proof.Machine

/-! ### Encoding and decoding -/

/-- Decoding the encoded word of a well-formed instruction gives it back, under every setting of the parameters. The
opcode values are the spec's choice (decision D2); the zeros in ignored bits are the model's (log 12). -/
def Obligations.DecodeOfEncodeIsInstruction : Prop :=
  ∀ (p : Params) (i : Instr), WellFormed p i = true → decode p (encode i) = .instr i

/-- A word that decodes to an instruction has the row's match under the row's mask, and is the encoded word but for the bits
that rule R74 writes `_`; what is decoded is well-formed. -/
def Obligations.DecodedWordIsEncodedUpToIgnoredBits : Prop :=
  ∀ (p : Params) (op : Word) (i : Instr), decode p op = .instr i →
    WellFormed p i = true ∧ op &&& opcodeMask i = opcodeMatch i ∧ op &&& ~~~ ignoredBits i = encode i

/-- Rules R81, R142, R242: with the default parameters the unknown opcodes are exactly the listed words; those of families 8, E
and F are unknown under every setting; and every unknown opcode is reported and skipped, with no other effect. -/
def Obligations.UnknownWordsAreExactlyTheListed : Prop :=
  (∀ op : Word, decode defaultParams op = .unknown op ↔
    (opField op = 0x0 ∧ nnField op ≠ 0xE0 ∧ nnField op ≠ 0xEE ∧ (nnField op).toNat < 0xFB ∧
      ¬ (0xC0 ≤ (nnField op).toNat ∧ (nnField op).toNat ≤ 0xCF)) ∨ UnknownUnderAll op) ∧
  (∀ (p : Params) (op : Word), UnknownUnderAll op → decode p op = .unknown op) ∧
  (∀ (op : Word) (s : State), decode s.params op = .unknown op →
    execWord op s = .next { s with report := .unknownOpcode op s.pc, pc := s.pc + 2 })

/-- What the decoding parameters change (rules R77, R80, R182; decisions D4, D5, D30): ZERO_FAMILY_STRICT and SKIP_REG_STRICT
compare the nibble that is ignored otherwise, and EXIT_MODE = unknown takes EXIT away. -/
def Obligations.StrictParametersMakeWordsUnknown : Prop :=
  ∀ (p : Params) (op : Word),
    (opField op = 0x0 → p.zeroFamilyStrict = true → xField op ≠ 0 → decode p op = .unknown op) ∧
    (opField op = 0x0 → p.zeroFamilyStrict = false → ∀ op', opField op' = 0x0 → nnField op' = nnField op →
      ∀ i, decode p op = .instr i → decode p op' = .instr i) ∧
    (opField op = 0x0 → p.exitMode = .unknown → nnField op = 0xFD → decode p op = .unknown op) ∧
    (opField op = 0x5 →
      decode p op = if p.skipRegStrict = true ∧ nField op ≠ 0 then .unknown op else .instr (.seReg (xField op) (yField op))) ∧
    (opField op = 0x9 →
      decode p op = if p.skipRegStrict = true ∧ nField op ≠ 0 then .unknown op else .instr (.sneReg (xField op) (yField op)))

/-- Words of each of the sixteen primary families of rule R76 decode to the instructions they stand for (95_test_vectors.md
section 2.1 and the examples of the instruction rules; default parameters; opcode values by decision D2). -/
def Obligations.SampleWordsDecode : Prop :=
  decode defaultParams 0x01E0 = .instr .cls ∧ decode defaultParams 0x00EE = .instr .ret ∧
  decode defaultParams 0x00C5 = .instr (.scd 5) ∧ decode defaultParams 0x1234 = .instr (.jp 0x234) ∧
  decode defaultParams 0x2300 = .instr (.call 0x300) ∧ decode defaultParams 0x3342 = .instr (.seImm 3 0x42) ∧
  decode defaultParams 0x4342 = .instr (.sneImm 3 0x42) ∧ decode defaultParams 0x5121 = .instr (.seReg 1 2) ∧
  decode defaultParams 0x6A2B = .instr (.ldImm 0xA 0x2B) ∧ decode defaultParams 0x7102 = .instr (.addImm 1 0x02) ∧
  decode defaultParams 0x8AB6 = .instr (.shr 0xA) ∧ decode defaultParams 0x8127 = .instr (.subn 1 2) ∧
  decode defaultParams 0x9120 = .instr (.sneReg 1 2) ∧ decode defaultParams 0xA2F0 = .instr (.ldI 0x2F0) ∧
  decode defaultParams 0xB300 = .instr (.jpV0 0x300) ∧ decode defaultParams 0xC30F = .instr (.rnd 3 0x0F) ∧
  decode defaultParams 0xD120 = .instr (.drw 1 2 0) ∧ decode defaultParams 0xE1A1 = .instr (.sknp 1) ∧
  decode defaultParams 0xF10A = .instr (.ldVxK 1) ∧ decode defaultParams 0xF275 = .instr (.storeR 2) ∧
  decode defaultParams 0x0123 = .unknown 0x0123 ∧ decode defaultParams 0x800D = .unknown 0x800D

/-! ### The step -/

/-- A step runs the decoded instruction (rule R100): where the bytes at pc decode to `i`, the step is `exec i` in the state
that has taken in the step's inputs. The schedule of host calls, and the free inputs when it is empty, are the model's
(log 2); the report and the random byte are the model's fields (logs 4, 5). -/
def Obligations.StepRunsFetchedInstruction : Prop :=
  ∀ (s : State) (i : Instr), s.Ready → s.CanFetch → decode s.params s.wordAtPc = .instr i →
    (∀ keyIn rnd rest, s.pending = .step keyIn rnd :: rest →
      step s = exec i { s with pending := rest, keys := keyIn, rnd := rnd, report := .ok }) ∧
    (s.pending = [] → ∃ keyIn rnd,
      step s = exec i { s with draws := s.draws + 1, keys := keyIn, rnd := rnd, report := .ok })

/-- Rule R274: an unknown opcode is reported with its word and address, pc advances by 2, and nothing else changes but the
inputs that every step takes in. -/
def Obligations.UnknownOpcodeReportsAndAdvances : Prop :=
  ∀ (s : State) (op : Word) (keyIn : BitVec 16) (rnd : Byte), s.Ready → s.CanFetch →
    decode s.params s.wordAtPc = .unknown op →
    op = s.wordAtPc ∧
    stepCall keyIn rnd s =
      .next { s with keys := keyIn, rnd := rnd, report := .unknownOpcode op s.pc, pc := s.pc + 2 }

/-- The fetch (rule R55) and its checks, LowFetch (R59) among them, in the order of rule R276: the fault that it raises, or the
fetch of the two bytes at pc. The two optional checks are decisions D10 and D11, the fault of an access above 0xFFF D12 and
D13. -/
def Obligations.FetchFaultsInOrder : Prop :=
  ∀ (s : State) (keyIn : BitVec 16) (rnd : Byte), s.Ready →
    ∃ t, stepCall keyIn rnd s = .next t ∧
      if s.params.pcAlignCheck = true ∧ s.pc.toNat % 2 = 1 then
        Faults (.misalignedFetch s.pc) { s with keys := keyIn, rnd := rnd } t
      else if s.params.fetchLowCheck = true ∧ s.pc.toNat < 0x200 then
        Faults (.lowFetch s.pc) { s with keys := keyIn, rnd := rnd } t
      else if 0xFFF < s.pc.toNat then Faults (.memoryOutOfRange s.pc.toNat) { s with keys := keyIn, rnd := rnd } t
      else if 0xFFF < s.pc.toNat + 1 then
        Faults (.memoryOutOfRange (s.pc.toNat + 1)) { s with keys := keyIn, rnd := rnd } t
      else execWord s.wordAtPc { s with keys := keyIn, rnd := rnd, report := .ok } = .next t

/-- Rules R112 and R273: a faulted instance changes nothing at a step and reports the fault again; the tick still runs; through
any number of steps, ticks and dirty-flag clears it stays as it was, but for the timers, the dirty flag and the report; a reset
whose load is accepted leaves the stuck state. -/
def Obligations.FaultedInstanceIsStuck : Prop :=
  ∀ (s : State) (r : Fault), s.fault = some r →
    (∀ keyIn rnd, stepCall keyIn rnd s = .next { s with report := .faulted r }) ∧
    (∃ t, hostCall .tick s = .next t ∧ t.DT.toNat = s.DT.toNat - 1 ∧ t.ST.toNat = s.ST.toNat - 1) ∧
    (∀ cs t, (∀ image, HostCall.reset image ∉ cs) → runCalls cs s = .next t →
      t.fault = some r ∧ t = { s with DT := t.DT, ST := t.ST, dirty := t.dirty, report := t.report }) ∧
    (∀ image t, image.length ≤ 3584 → hostCall (.reset image) s = .next t → t.fault = none)

/-- Faults are precise (rule R272, decision D42): a step that raises a fault returns the state before it, with the latch set
and the step's key snapshot taken in (the random byte and the report are the model's fields, logs 4, 5). -/
def Obligations.FaultsArePrecise : Prop :=
  ∀ (s t : State) (keyIn : BitVec 16) (rnd : Byte) (r : Fault), s.fault = none →
    stepCall keyIn rnd s = .next t → t.fault = some r →
    t = { s with keys := keyIn, rnd := rnd, fault := some r, report := .faulted r }

/-- Rule R214 (its level-sensitivity is decision D40): a step in AwaitingKey(x) writes the lowest pressed key to V[x], moves pc
past the key wait and returns to Running, all in one step; with no key pressed it changes nothing but the inputs taken in. -/
def Obligations.KeyWaitResolvesToLowestKey : Prop :=
  ∀ (s : State) (x : Reg) (keyIn : BitVec 16) (rnd : Byte), s.fault = none → s.ctl = .awaitingKey x →
    (∀ k : Nat, k < 16 → keyIn.getLsbD k = true → (∀ j, j < k → keyIn.getLsbD j = false) →
      ∃ t, stepCall keyIn rnd s = .next t ∧ (t.v x).toNat = k ∧ (∀ q, q ≠ x → t.v q = s.v q) ∧
        t = { s with keys := keyIn, rnd := rnd, report := .ok, V := t.V, pc := s.pc + 2, ctl := .running }) ∧
    (keyIn = 0 → stepCall keyIn rnd s = .next { s with keys := keyIn, rnd := rnd, report := .ok })

/-- Rule R216: while every snapshot supplied is empty, the wait makes no progress through any number of steps, ticks and
dirty-flag clears; the timers move by the ticks alone. A wait on register 15 writes the key index into VF. -/
def Obligations.KeyWaitMakesNoProgress : Prop :=
  (∀ (s t : State) (x : Reg) (cs : List HostCall), s.fault = none → s.ctl = .awaitingKey x →
    (∀ c ∈ cs, c = .tick ∨ c = .clearDirty ∨ ∃ rnd, c = .step 0 rnd) → runCalls cs s = .next t →
    t.ctl = .awaitingKey x ∧ t.pc = s.pc ∧ (∀ r, t.v r = s.v r) ∧ (∀ a, t.readByte a = s.readByte a) ∧
    t.DT.toNat = s.DT.toNat - cs.count .tick ∧ t.ST.toNat = s.ST.toNat - cs.count .tick ∧
    t = { s with keys := t.keys, rnd := t.rnd, report := t.report, DT := t.DT, ST := t.ST, dirty := t.dirty }) ∧
  (∀ (s : State) (keyIn : BitVec 16) (rnd : Byte) (k : Nat), s.fault = none → s.ctl = .awaitingKey 15 → k < 16 →
    keyIn.getLsbD k = true → (∀ j, j < k → keyIn.getLsbD j = false) →
    ∃ t, stepCall keyIn rnd s = .next t ∧ (t.v 15).toNat = k)

/-- The host's operations (rules R280, R283, R284): the tick counts each timer down and floors it at zero, in every control
state and in a faulted one, and changes nothing else (these two by decision D45); the render and audio collaborators' operations read and clear what the rules say. -/
def Obligations.HostOperationsTickAndObserve : Prop :=
  ∀ s : State,
    (∃ t, hostCall .tick s = .next t ∧ t.DT.toNat = s.DT.toNat - 1 ∧ t.ST.toNat = s.ST.toNat - 1 ∧
      t = { s with DT := t.DT, ST := t.ST }) ∧
    hostCall .clearDirty s = .next { s with dirty := false } ∧
    s.isDirty = s.dirty ∧ (s.soundOn = true ↔ s.ST.toNat ≠ 0) ∧
    s.frame.length = (if s.ext = true then 64 else 32) ∧
    (∀ row ∈ s.frame, row.length = (if s.ext = true then 128 else 64)) ∧
    (∀ y x, y < (if s.ext = true then 64 else 32) → x < (if s.ext = true then 128 else 64) →
      (s.frame[y]?.bind fun row => row[x]?) = some (Framebuffer.pixel s.fb y x))

/-! ### Rules of the whole machine -/

/-- Rule R233: beside the tick (and a reset, which constructs the state again), no host call changes DT but a step that runs
LD DT, Vx, and none changes ST but a step that runs LD ST, Vx. -/
def Obligations.StepMovesTimersOnlyByTheirWrites : Prop :=
  ∀ (c : HostCall) (s t : State), hostCall c s = .next t → c ≠ .tick → (∀ image, c ≠ .reset image) →
    (t.DT = s.DT ∨ ∃ x, s.Ready ∧ s.CanFetch ∧ decode s.params s.wordAtPc = .instr (.ldDtVx x) ∧ t.DT = s.v x) ∧
    (t.ST = s.ST ∨ ∃ x, s.Ready ∧ s.CanFetch ∧ decode s.params s.wordAtPc = .instr (.ldStVx x) ∧ t.ST = s.v x)

/-- Each component of rule R20 but pc, which every instruction disposes of, has the writers that the rules name (R24, R26 to
R32, R51, R170 to R181, R271): memory is changed by LD B and LD [I], Vx alone, the stack by CALL alone and its pointer by CALL
and RET, the RPL flags by LD R, Vx, extended mode by LOW and HIGH, the control state by LD Vx, K, the index register by its five
writers, the framebuffer by the seven display instructions, a general register by its row of rule R24, each timer by its own
load, the dirty flag by its setters (R183, decision D27), the fault latch by the instructions of rule R271 (its codes 3 to 9 are
decision D42); no instruction writes the key snapshot, and nothing changes the parameters (R300). -/
def Obligations.EachComponentHasItsWriters : Prop :=
  (∀ (i : Instr) (s t : State), exec i s = .next t →
    ((∀ x, i ≠ .ldB x ∧ i ≠ .store x) → ∀ a, t.readByte a = s.readByte a) ∧
    ((∀ a, i ≠ .call a) → t.stack = s.stack) ∧
    ((∀ a, i ≠ .call a) → i ≠ .ret → t.sp = s.sp) ∧
    ((∀ x, i ≠ .storeR x) → t.aux = s.aux) ∧
    (i ≠ .low → i ≠ .high → t.ext = s.ext) ∧
    ((∀ x, i ≠ .ldVxK x) → t.ctl = s.ctl) ∧
    ((∀ a x, i ≠ .ldI a ∧ i ≠ .addI x ∧ i ≠ .ldF x ∧ i ≠ .ldHF x) →
      (∀ x, (i = .store x ∨ i = .load x) → s.params.loadStoreIncrementsI = false) → t.I = s.I) ∧
    (¬ writesFramebuffer i → t.fb = s.fb) ∧
    (∀ r, ¬ writesRegister s.params i r → t.v r = s.v r) ∧
    ((∀ x, i ≠ .ldDtVx x) → t.DT = s.DT) ∧
    ((∀ x, i ≠ .ldStVx x) → t.ST = s.ST) ∧
    (¬ setsDirty s i → t.dirty = s.dirty) ∧
    (¬ mayRaise i → t.fault = s.fault) ∧
    t.keys = s.keys ∧ t.params = s.params) ∧
  (∀ (c : HostCall) (s t : State), hostCall c s = .next t → t.params = s.params)

/-- The dirty flag (rule R183; that other instructions than DRW set it is decision D27): the display instructions set it when
they take effect, no instruction clears it, and the host's clearDirty does. -/
def Obligations.DirtyIsSetByDisplayInstructionsAndNeverCleared : Prop :=
  (∀ (i : Instr) (s t : State), s.fault = none → exec i s = .next t →
    (setsDirty s i → t.fault = none → t.dirty = true) ∧
    (¬ setsDirty s i → t.dirty = s.dirty) ∧
    (t.fault ≠ none → t.dirty = s.dirty)) ∧
  (∀ (s t : State) (keyIn : BitVec 16) (rnd : Byte), stepCall keyIn rnd s = .next t → s.dirty = true → t.dirty = true) ∧
  (∀ s t : State, hostCall .clearDirty s = .next t → t.dirty = false)

/-- Rule R24: an instruction writes no register but those its row of the table names, and reads none but those: two states
that differ in a register it does not read give results that differ at most in that register. -/
def Obligations.RegistersAreReadAndWrittenAsTabled : Prop :=
  (∀ (i : Instr) (s t : State), exec i s = .next t → ∀ r, ¬ writesRegister s.params i r → t.v r = s.v r) ∧
  (∀ (i : Instr) (s t t' : State) (r : Reg) (b : Byte), ¬ readsRegister s.params i r →
    exec i s = .next t → exec i (s.setV r b) = .next t' →
    t' = { t with V := t'.V } ∧ (∀ q, q ≠ r → t'.v q = t.v q) ∧ (t'.v r = b ∨ t'.v r = t.v r)) ∧
  (∀ (s t : State) (x : Reg) (keyIn : BitVec 16) (rnd : Byte), s.ctl = .awaitingKey x → stepCall keyIn rnd s = .next t →
    ∀ r, r ≠ x → t.v r = s.v r)

/-- No instruction reads ST (rule R28): two states that differ in ST alone give results that differ in ST alone, and LD ST, Vx
gives one result. -/
def Obligations.NoInstructionReadsTheSoundTimer : Prop :=
  ∀ (i : Instr) (s t : State) (b : Byte), exec i s = .next t →
    ((∀ x, i ≠ .ldStVx x) → exec i { s with ST := b } = .next { t with ST := b }) ∧
    (∀ x, i = .ldStVx x → exec i { s with ST := b } = .next t)

/-! ### Invariants -/

/-- Every step keeps the invariant: memory canonical and inside the address space, pc at most 0x10FE, return addresses at most
0x1000, and a key wait at an address that could be fetched (rules R25, R54, R101, R214, decision D9). -/
def Obligations.EveryStepKeepsTheInvariant : Prop :=
  ∀ s t : State, s.Inv → step s = .next t → t.Inv

/-- Every step keeps a latched fault explained: it was raised while running, and its recorded value and its cause can be
read off the state it left (rules R271, R272, R276). -/
def Obligations.EveryStepKeepsFaultsExplained : Prop :=
  ∀ s t : State, s.LatchExplained → step s = .next t → t.LatchExplained

/-- The state at reset: it is the construction with no image and the default parameters, its components hold the values of
rule R35 (those the source does not give are decision D35, log 7), and it meets the invariants of a step. -/
def Obligations.ResetStateIsBareConstruction : Prop :=
  construct defaultParams [] = .ok State.reset ∧ State.reset.Inv ∧ State.reset.LatchExplained ∧ State.reset.Ready ∧
  State.reset.pc = 0x200 ∧ State.reset.I = 0 ∧ State.reset.sp = 0 ∧ (∀ r, State.reset.v r = 0) ∧
  State.reset.DT = 0 ∧ State.reset.ST = 0 ∧ State.reset.keys = 0 ∧ State.reset.ext = false ∧ State.reset.dirty = false ∧
  (∀ k : Fin 16, State.reset.stack[k] = 0) ∧ (∀ k : Fin 8, State.reset.aux[k] = 0) ∧
  (∀ y x, Framebuffer.pixel State.reset.fb y x = false)

/-- Construction (rules R300, R301, R275; decisions D35, D37, D38): an image of more than 3584 bytes is refused with its length;
otherwise the fonts, the image and zeros are laid out in memory and every other component has its construction value. -/
def Obligations.ConstructLaysOutTheImage : Prop :=
  ∀ (p : Params) (image : List Byte),
    (3584 < image.length → construct p image = .error image.length) ∧
    (image.length ≤ 3584 → ∃ t, construct p image = .ok t ∧
      (∀ k : Fin 80, t.readByte k.val = p.fontSmall[k]) ∧
      (∀ k : Fin 100, t.readByte (0x50 + k.val) = p.fontLarge[k]) ∧
      (∀ a, 0xB4 ≤ a → a < 0x200 → t.readByte a = 0) ∧
      (∀ k : Fin image.length, t.readByte (0x200 + k.val) = image[k]) ∧
      (∀ a, 0x200 + image.length ≤ a → a ≤ 0xFFF → t.readByte a = 0) ∧
      t = { State.reset with params := p, mem := t.mem })

/-- Reset (rule R302, decision D36): the host's reset is construction again with the same parameters, with the RPL flags kept;
a refused load leaves the state as it was. What happens to the model's own fields is log 15. -/
def Obligations.ResetKeepsTheRplFlags : Prop :=
  ∀ (s : State) (image : List Byte),
    (3584 < image.length → hostCall (.reset image) s = .next { s with report := .imageTooLarge image.length }) ∧
    (image.length ≤ 3584 → ∃ t u, hostCall (.reset image) s = .next t ∧ construct s.params image = .ok u ∧
      t = { u with aux := s.aux, pending := s.pending, draws := s.draws })

/-! ### Control flow -/

/-- Rule R102: any target is taken; the one target above 0xFFE faults at the next fetch, not at the jump. -/
def Obligations.JumpTakesItsTarget : Prop :=
  WordsDecode (fun _ => 0xF000) 0x1000 (fun op => .jp (nnnField op)) ∧
  ∀ (a : BitVec 12) (s : State), ∃ t, exec (.jp a) s = .next t ∧ t.pc.toNat = a.toNat ∧ t = { s with pc := t.pc } ∧
    (s.Ready → 0xFFE < a.toNat → s.params.pcAlignCheck = false → ∀ keyIn rnd, ∃ u, stepCall keyIn rnd t = .next u ∧
      Faults (.memoryOutOfRange 0x1000) { t with keys := keyIn, rnd := rnd } u)

/-- CALL (rule R103; that the pushed address is the one after the CALL is decision D6 and conflict C1). -/
def Obligations.CallPushesTheNextAddress : Prop :=
  WordsDecode (fun _ => 0xF000) 0x2000 (fun op => .call (nnnField op)) ∧
  ∀ (a : BitVec 12) (s : State),
    (s.sp.val < 16 → ∃ t, exec (.call a) s = .next t ∧ t.pc.toNat = a.toNat ∧ t.sp.val = s.sp.val + 1 ∧
      (∀ k : Fin 16, t.stack[k] = if k.val = s.sp.val then s.pc + 2 else s.stack[k]) ∧
      (∀ b, t.readByte b = s.readByte b) ∧ t = { s with pc := t.pc, sp := t.sp, stack := t.stack }) ∧
    (s.sp.val = 16 → ∃ t, exec (.call a) s = .next t ∧ Faults (.stackOverflow s.pc) s t)

/-- Rule R104. -/
def Obligations.RetPopsTheReturnAddress : Prop :=
  WordsDecode (zeroFamilyMask 0x00FF) 0x00EE (fun _ => .ret) ∧
  ∀ s : State,
    (∀ k : Fin 16, s.sp.val = k.val + 1 → ∃ t, exec .ret s = .next t ∧ t.pc = s.stack[k] ∧ t.sp.val = k.val ∧
      (∀ b, t.readByte b = s.readByte b) ∧ t = { s with pc := t.pc, sp := t.sp }) ∧
    (s.sp.val = 0 → ∃ t, exec .ret s = .next t ∧ Faults (.stackUnderflow s.pc) s t)

/-- CALL and RET together (rules R103, R104, conflict C1): a RET in any state that has the stack and pointer a CALL left
continues after the CALL, with the pointer the CALL found. -/
def Obligations.RetAfterCallContinuesAfterTheCall : Prop :=
  ∀ (a : BitVec 12) (s t u : State), s.sp.val < 16 → exec (.call a) s = .next t → u.stack = t.stack → u.sp = t.sp →
    ∃ v, exec .ret u = .next v ∧ v.pc = s.pc + 2 ∧ v.sp = s.sp ∧ v.stack = t.stack

/-- JP V0, nnn (rule R105; the instruction and its register are decisions D2 and D17): the sum is taken on naturals, with no
wrap. -/
def Obligations.JumpWithOffsetAddsTheRegister : Prop :=
  WordsDecode (fun _ => 0xF000) 0xB000 (fun op => .jpV0 (nnnField op)) ∧
  ∀ (a : BitVec 12) (s : State) (r : Reg), r.val = (if s.params.bnnnUsesVx = true then a.toNat / 256 else 0) →
    ∃ t, exec (.jpV0 a) s = .next t ∧ t.pc.toNat = a.toNat + (s.v r).toNat ∧ t = { s with pc := t.pc }

/-- Rules R106 and R107. -/
def Obligations.ImmediateSkipsCompareAndSkip : Prop :=
  WordsDecode (fun _ => 0xF000) 0x3000 (fun op => .seImm (xField op) (nnField op)) ∧
  WordsDecode (fun _ => 0xF000) 0x4000 (fun op => .sneImm (xField op) (nnField op)) ∧
  ∀ (x : Reg) (nn : Byte) (s : State),
    exec (.seImm x nn) s = .next { s with pc := if s.v x = nn then s.pc + 4 else s.pc + 2 } ∧
    exec (.sneImm x nn) s = .next { s with pc := if s.v x = nn then s.pc + 2 else s.pc + 4 }

/-- Rules R108 and R109 (that n is ignored unless SKIP_REG_STRICT is decision D5). -/
def Obligations.RegisterSkipsCompareAndSkip : Prop :=
  WordsDecode skipRegMask 0x5000 (fun op => .seReg (xField op) (yField op)) ∧
  WordsDecode skipRegMask 0x9000 (fun op => .sneReg (xField op) (yField op)) ∧
  ∀ (x y : Reg) (s : State),
    exec (.seReg x y) s = .next { s with pc := if s.v x = s.v y then s.pc + 4 else s.pc + 2 } ∧
    exec (.sneReg x y) s = .next { s with pc := if s.v x = s.v y then s.pc + 2 else s.pc + 4 }

/-! ### Register operations -/

/-- Rules R130 and R132. -/
def Obligations.LoadsWriteOneRegister : Prop :=
  WordsDecode (fun _ => 0xF000) 0x6000 (fun op => .ldImm (xField op) (nnField op)) ∧
  WordsDecode (fun _ => 0xF00F) 0x8000 (fun op => .mov (xField op) (yField op)) ∧
  (∀ (x : Reg) (nn : Byte) (s : State), ∃ t, exec (.ldImm x nn) s = .next t ∧ t.v x = nn ∧ t.pc = s.pc + 2 ∧
    RegisterFrame (· = x) s t) ∧
  (∀ (x y : Reg) (s : State), ∃ t, exec (.mov x y) s = .next t ∧ t.v x = s.v y ∧ t.pc = s.pc + 2 ∧
    RegisterFrame (· = x) s t)

/-- Rule R131: the sum wraps, no flag is written, and under the quirk VF as destination keeps its value (the toggle of the
quirk is decision D48). -/
def Obligations.AddImmediateWrapsWithoutFlag : Prop :=
  WordsDecode (fun _ => 0xF000) 0x7000 (fun op => .addImm (xField op) (nnField op)) ∧
  ∀ (x : Reg) (nn : Byte) (s : State), ∃ t, exec (.addImm x nn) s = .next t ∧
    (t.v x).toNat = (if x = 15 ∧ s.params.quirkVfAddExclusion = true then (s.v x).toNat
      else ((s.v x).toNat + nn.toNat) % 256) ∧
    t.pc = s.pc + 2 ∧ RegisterFrame (· = x) s t

/-- OR, AND and XOR (rules R133 to R135; that VF is left alone unless it is the destination is decision D16). -/
def Obligations.LogicOperationsCombineBits : Prop :=
  WordsDecode (fun _ => 0xF00F) 0x8001 (fun op => .or (xField op) (yField op)) ∧
  WordsDecode (fun _ => 0xF00F) 0x8002 (fun op => .and (xField op) (yField op)) ∧
  WordsDecode (fun _ => 0xF00F) 0x8003 (fun op => .xor (xField op) (yField op)) ∧
  ∀ (x y : Reg) (s : State),
    (∃ t, exec (.or x y) s = .next t ∧ (∀ k, (t.v x).getLsbD k = ((s.v x).getLsbD k || (s.v y).getLsbD k)) ∧
      t.pc = s.pc + 2 ∧ RegisterFrame (· = x) s t) ∧
    (∃ t, exec (.and x y) s = .next t ∧ (∀ k, (t.v x).getLsbD k = ((s.v x).getLsbD k && (s.v y).getLsbD k)) ∧
      t.pc = s.pc + 2 ∧ RegisterFrame (· = x) s t) ∧
    (∃ t, exec (.xor x y) s = .next t ∧ (∀ k, (t.v x).getLsbD k = ((s.v x).getLsbD k ^^ (s.v y).getLsbD k)) ∧
      t.pc = s.pc + 2 ∧ RegisterFrame (· = x) s t)

/-- ADD Vx, Vy (rule R137; for the destination VF, rule R136 decides what VF holds, and the open order is decision D14). -/
def Obligations.AddSetsCarry : Prop :=
  WordsDecode (fun _ => 0xF00F) 0x8004 (fun op => .add (xField op) (yField op)) ∧
  (∀ (x y : Reg) (s : State), x ≠ 15 → ∃ t, exec (.add x y) s = .next t ∧
    (t.v x).toNat = ((s.v x).toNat + (s.v y).toNat) % 256 ∧
    t.v 15 = (if (s.v x).toNat + (s.v y).toNat > 255 then 1 else 0) ∧
    t.pc = s.pc + 2 ∧ RegisterFrame (fun r => r = x ∨ r = 15) s t) ∧
  ∀ (y : Reg) (s : State), LeavesInVf (.add 15 y) (BitVec.ofNat 8 ((s.v 15).toNat + (s.v y).toNat))
    (if (s.v 15).toNat + (s.v y).toNat > 255 then 1 else 0) s

/-- SUB and SUBN (rules R138, R140): VF = 1 means no borrow. For the destination VF, rule R136 decides what VF holds, and the
open order is decision D14. -/
def Obligations.SubtractionsSetNoBorrow : Prop :=
  WordsDecode (fun _ => 0xF00F) 0x8005 (fun op => .sub (xField op) (yField op)) ∧
  WordsDecode (fun _ => 0xF00F) 0x8007 (fun op => .subn (xField op) (yField op)) ∧
  (∀ (x y : Reg) (s : State), x ≠ 15 →
    (∃ t, exec (.sub x y) s = .next t ∧ (t.v x).toNat = ((s.v x).toNat + 256 - (s.v y).toNat) % 256 ∧
      t.v 15 = (if (s.v x).toNat ≥ (s.v y).toNat then 1 else 0) ∧
      t.pc = s.pc + 2 ∧ RegisterFrame (fun r => r = x ∨ r = 15) s t) ∧
    (∃ t, exec (.subn x y) s = .next t ∧ (t.v x).toNat = ((s.v y).toNat + 256 - (s.v x).toNat) % 256 ∧
      t.v 15 = (if (s.v y).toNat ≥ (s.v x).toNat then 1 else 0) ∧
      t.pc = s.pc + 2 ∧ RegisterFrame (fun r => r = x ∨ r = 15) s t)) ∧
  ∀ (y : Reg) (s : State),
    LeavesInVf (.sub 15 y) (BitVec.ofNat 8 ((s.v 15).toNat + 256 - (s.v y).toNat))
      (if (s.v 15).toNat ≥ (s.v y).toNat then 1 else 0) s ∧
    LeavesInVf (.subn 15 y) (BitVec.ofNat 8 ((s.v y).toNat + 256 - (s.v 15).toNat))
      (if (s.v y).toNat ≥ (s.v 15).toNat then 1 else 0) s

/-- SHR (rule R139; for the destination VF, rule R136 decides what VF holds, and the open order is decision D14). -/
def Obligations.ShiftRightMovesTheLowBitOut : Prop :=
  WordsDecode (fun _ => 0xF00F) 0x8006 (fun op => .shr (xField op)) ∧
  (∀ (x : Reg) (s : State), x ≠ 15 → ∃ t, exec (.shr x) s = .next t ∧ (t.v x).toNat = (s.v x).toNat / 2 ∧
    (t.v 15).toNat = (s.v x).toNat % 2 ∧ t.pc = s.pc + 2 ∧ RegisterFrame (fun r => r = x ∨ r = 15) s t) ∧
  ∀ s : State, LeavesInVf (.shr 15) (BitVec.ofNat 8 ((s.v 15).toNat / 2)) (BitVec.ofNat 8 ((s.v 15).toNat % 2)) s

/-- SHL (rule R141; the two readings of the flag are decision D15, what VF holds as destination D14). -/
def Obligations.ShiftLeftMovesTheHighBitOut : Prop :=
  WordsDecode (fun _ => 0xF00F) 0x800E (fun op => .shl (xField op)) ∧
  (∀ (x : Reg) (s : State), x ≠ 15 → ∃ t, exec (.shl x) s = .next t ∧ (t.v x).toNat = 2 * (s.v x).toNat % 256 ∧
    (t.v 15).toNat = (s.v x).toNat / 128 * (if s.params.shlFlagRaw = true then 128 else 1) ∧
    t.pc = s.pc + 2 ∧ RegisterFrame (fun r => r = x ∨ r = 15) s t) ∧
  ∀ s : State, LeavesInVf (.shl 15) (BitVec.ofNat 8 (2 * (s.v 15).toNat))
    (BitVec.ofNat 8 ((s.v 15).toNat / 128 * (if s.params.shlFlagRaw = true then 128 else 1))) s

/-- LD I, nnn (rule R143; the instruction is decision D2). -/
def Obligations.LoadIndexTakesTheAddress : Prop :=
  WordsDecode (fun _ => 0xF000) 0xA000 (fun op => .ldI (nnnField op)) ∧
  ∀ (a : BitVec 12) (s : State), ∃ t, exec (.ldI a) s = .next t ∧ t.I.toNat = a.toNat ∧ t.pc = s.pc + 2 ∧
    t = { s with I := t.I, pc := t.pc }

/-- Rule R144: the random byte of the step, under a mask; the step takes any byte in as `rnd`. -/
def Obligations.RandomByteIsMasked : Prop :=
  WordsDecode (fun _ => 0xF000) 0xC000 (fun op => .rnd (xField op) (nnField op)) ∧
  ∀ (x : Reg) (nn rnd : Byte) (s : State), ∃ t, exec (.rnd x nn) { s with rnd := rnd } = .next t ∧
    (∀ k, (t.v x).getLsbD k = (rnd.getLsbD k && nn.getLsbD k)) ∧ t.pc = s.pc + 2 ∧
    RegisterFrame (· = x) { s with rnd := rnd } t

/-! ### The framebuffer -/

/-- CLS (rule R170, decision D33): every cell of the store is cleared, in either mode. -/
def Obligations.ClearScreenClearsEveryCell : Prop :=
  WordsDecode (zeroFamilyMask 0x00FF) 0x00E0 (fun _ => .cls) ∧
  ∀ s : State, ∃ t, exec .cls s = .next t ∧ (∀ y x, Framebuffer.pixel t.fb y x = false) ∧ t.dirty = true ∧
    t.pc = s.pc + 2 ∧ DisplayFrame s t

/-- When DRW draws and when it does not (rules R173, R243, R276; decisions D12, D23, D24, D26): the 0-height draw of base mode is a no-op;
the two faults, in their order; otherwise it draws. -/
def Obligations.DrawRunsUnlessOutOfRange : Prop :=
  WordsDecode (fun _ => 0xF000) 0xD000 (fun op => .drw (xField op) (yField op) (nField op)) ∧
  ∀ (x y : Reg) (n : Fin 16) (s : State),
    (s.ext = false ∧ n = 0 → exec (.drw x y n) s = .next { s with pc := s.pc + 2 }) ∧
    (¬ (s.ext = false ∧ n = 0) → 0x1000 < s.I.toNat + rowsOf n * rowBytesOf s n →
      ∃ t, exec (.drw x y n) s = .next t ∧ Faults (.memoryOutOfRange (max s.I.toNat 0x1000)) s t) ∧
    (¬ (s.ext = false ∧ n = 0) → s.I.toNat + rowsOf n * rowBytesOf s n ≤ 0x1000 → BaseRowFault s y n →
      ∃ t, exec (.drw x y n) s = .next t ∧ Faults (.baseRowOutOfRange (s.v y)) s t) ∧
    (¬ (s.ext = false ∧ n = 0) → s.I.toNat + rowsOf n * rowBytesOf s n ≤ 0x1000 → ¬ BaseRowFault s y n →
      ∃ t, exec (.drw x y n) s = .next t ∧ t.dirty = true ∧ t.pc = s.pc + 2 ∧ DrawFrame s t)

/-- Rule R174: a draw leaves FB XOR S, where S is the placed sprite mask, and VF = 1 exactly if FB AND S is not zero. The
coordinates are read before VF is written. (Placement: rule R172, decisions D23 to D25, D34.) -/
def Obligations.DrawXorsTheMaskAndDetectsCollision : Prop :=
  ∀ (x y : Reg) (n : Fin 16) (s : State), ¬ (s.ext = false ∧ n = 0) → s.I.toNat + rowsOf n * rowBytesOf s n ≤ 0x1000 →
    ¬ BaseRowFault s y n →
    ∃ t, exec (.drw x y n) s = .next t ∧
      (∀ cy cx, SpriteCovers s (s.v x).toNat (s.v y).toNat n cy cx →
        Framebuffer.pixel t.fb cy cx = !Framebuffer.pixel s.fb cy cx) ∧
      (∀ cy cx, ¬ SpriteCovers s (s.v x).toNat (s.v y).toNat n cy cx →
        Framebuffer.pixel t.fb cy cx = Framebuffer.pixel s.fb cy cx) ∧
      ((∃ cy cx, SpriteCovers s (s.v x).toNat (s.v y).toNat n cy cx ∧ Framebuffer.pixel s.fb cy cx = true) → t.v 15 = 1) ∧
      ((∀ cy cx, SpriteCovers s (s.v x).toNat (s.v y).toNat n cy cx → Framebuffer.pixel s.fb cy cx = false) → t.v 15 = 0)

/-- Rules R175, R176 and R177 in extended mode (that dirty is set is decision D27; base mode is ScrollInBaseMode). -/
def Obligations.ScrollsMoveEveryPixel : Prop :=
  WordsDecode (zeroFamilyMask 0x00F0) 0x00C0 (fun op => .scd (nField op)) ∧
  WordsDecode (zeroFamilyMask 0x00FF) 0x00FB (fun _ => .scr) ∧
  WordsDecode (zeroFamilyMask 0x00FF) 0x00FC (fun _ => .scl) ∧
  ∀ s : State, s.ext = true →
    (∀ n : Fin 16, ∃ t, exec (.scd n) s = .next t ∧ t.dirty = true ∧ t.pc = s.pc + 2 ∧ DisplayFrame s t ∧
      ∀ y x, y < 64 → x < 128 →
        Framebuffer.pixel t.fb y x = if n.val ≤ y then Framebuffer.pixel s.fb (y - n.val) x else false) ∧
    (∃ t, exec .scr s = .next t ∧ t.dirty = true ∧ t.pc = s.pc + 2 ∧ DisplayFrame s t ∧
      ∀ y x, y < 64 → x < 128 → Framebuffer.pixel t.fb y x = if 4 ≤ x then Framebuffer.pixel s.fb y (x - 4) else false) ∧
    (∃ t, exec .scl s = .next t ∧ t.dirty = true ∧ t.pc = s.pc + 2 ∧ DisplayFrame s t ∧
      ∀ y x, y < 64 → x < 128 → Framebuffer.pixel t.fb y x = if x < 124 then Framebuffer.pixel s.fb y (x + 4) else false)

/-- A scroll in base mode (rule R178, decision D29), by BASE_MODE_SCROLL: under `unspecified` nothing is said of the pixels;
`noop` changes pc alone; `full` moves the 64 x 32 window and leaves the rest of the store. -/
def Obligations.ScrollInBaseMode : Prop :=
  ∀ s : State, s.ext = false → ∀ i : Instr, (i = .scr ∨ i = .scl ∨ ∃ n, i = .scd n) →
    ∃ t, exec i s = .next t ∧ t.pc = s.pc + 2 ∧ FreeDisplayFrame s t ∧ t.ext = s.ext ∧
      (s.params.baseModeScroll = .unspecified → t.dirty = true) ∧
      (s.params.baseModeScroll = .noop → t = { s with pc := t.pc }) ∧
      (s.params.baseModeScroll = .full → t.dirty = true ∧ t.draws = s.draws ∧
        (∀ y x, ¬ (y < 32 ∧ x < 64) → Framebuffer.pixel t.fb y x = Framebuffer.pixel s.fb y x) ∧
        ∀ y x, y < 32 → x < 64 →
          (∀ n : Fin 16, i = .scd n →
            Framebuffer.pixel t.fb y x = if n.val ≤ y then Framebuffer.pixel s.fb (y - n.val) x else false) ∧
          (i = .scr → Framebuffer.pixel t.fb y x = if 4 ≤ x then Framebuffer.pixel s.fb y (x - 4) else false) ∧
          (i = .scl → Framebuffer.pixel t.fb y x = if x < 60 then Framebuffer.pixel s.fb y (x + 4) else false))

/-- SCL then SCR in extended mode gives the framebuffer back with columns 0-3 cleared (rule R177's derived corner case,
95_test_vectors.md S9). -/
def Obligations.ScrollLeftThenRightClearsFourColumns : Prop :=
  ∀ s t u : State, s.ext = true → exec .scl s = .next t → exec .scr t = .next u →
    ∀ y x, y < 64 → x < 128 → Framebuffer.pixel u.fb y x = if x < 4 then false else Framebuffer.pixel s.fb y x

/-- LOW and HIGH (rules R179 to R181; what the framebuffer holds after them is decision D28). -/
def Obligations.ModeSwitchesSetTheMode : Prop :=
  WordsDecode (zeroFamilyMask 0x00FF) 0x00FE (fun _ => .low) ∧
  WordsDecode (zeroFamilyMask 0x00FF) 0x00FF (fun _ => .high) ∧
  ∀ (s : State) (m : Bool), ∃ t, exec (if m then .high else .low) s = .next t ∧ t.ext = m ∧ t.dirty = true ∧
    t.pc = s.pc + 2 ∧ FreeDisplayFrame s t ∧
    (s.params.modeSwitchFb = .keep → t.fb = s.fb ∧ t.draws = s.draws) ∧
    (s.params.modeSwitchFb = .clear → (∀ y x, Framebuffer.pixel t.fb y x = false) ∧ t.draws = s.draws)

/-- EXIT (rule R182, decision D30): under EXIT_MODE = fault its word decodes to it and its effect is the fault; nothing else
changes. That exec EXIT raises it under EXIT_MODE = unknown too, where no word decodes to EXIT, is the model's choice (log
13). -/
def Obligations.ExitRaisesItsFault : Prop :=
  (∀ (p : Params) (op : Word), p.exitMode = .fault → op &&& zeroFamilyMask 0x00FF p = 0x00FD → decode p op = .instr .exit) ∧
  ∀ s : State, ∃ t, exec .exit s = .next t ∧ Faults (.exitUnmodelled s.pc) s t

/-! ### Keys -/

/-- SKP and SKNP (rules R210, R211), with the index check of rule R212 (decision D21). -/
def Obligations.KeySkipsReadTheSnapshot : Prop :=
  WordsDecode (fun _ => 0xF0FF) 0xE09E (fun op => .skp (xField op)) ∧
  WordsDecode (fun _ => 0xF0FF) 0xE0A1 (fun op => .sknp (xField op)) ∧
  ∀ (x : Reg) (s : State),
    ((s.v x).toNat < 16 →
      exec (.skp x) s = .next { s with pc := if s.keys.getLsbD (s.v x).toNat = true then s.pc + 4 else s.pc + 2 } ∧
      exec (.sknp x) s = .next { s with pc := if s.keys.getLsbD (s.v x).toNat = true then s.pc + 2 else s.pc + 4 }) ∧
    (16 ≤ (s.v x).toNat →
      (∃ t, exec (.skp x) s = .next t ∧ Faults (.keyIndexOutOfRange (s.v x)) s t) ∧
      (∃ t, exec (.sknp x) s = .next t ∧ Faults (.keyIndexOutOfRange (s.v x)) s t))

/-- Rule R213: the key wait is entered with pc held and no register changed, whatever the snapshot holds. -/
def Obligations.KeyWaitIsEnteredWithPcHeld : Prop :=
  WordsDecode (fun _ => 0xF0FF) 0xF00A (fun op => .ldVxK (xField op)) ∧
  ∀ (x : Reg) (s : State), ∃ t, exec (.ldVxK x) s = .next t ∧ t.ctl = .awaitingKey x ∧ t.pc = s.pc ∧
    (∀ r, t.v r = s.v r) ∧ (∀ a, t.readByte a = s.readByte a) ∧ t = { s with ctl := t.ctl }

/-! ### Timers, the index register and memory blocks -/

/-- Rules R230, R231 and R232. -/
def Obligations.TimerTransfersMoveOneByte : Prop :=
  WordsDecode (fun _ => 0xF0FF) 0xF007 (fun op => .ldVxDt (xField op)) ∧
  WordsDecode (fun _ => 0xF0FF) 0xF015 (fun op => .ldDtVx (xField op)) ∧
  WordsDecode (fun _ => 0xF0FF) 0xF018 (fun op => .ldStVx (xField op)) ∧
  ∀ (x : Reg) (s : State),
    (∃ t, exec (.ldVxDt x) s = .next t ∧ t.v x = s.DT ∧ t.pc = s.pc + 2 ∧ RegisterFrame (· = x) s t) ∧
    exec (.ldDtVx x) s = .next { s with DT := s.v x, pc := s.pc + 2 } ∧
    exec (.ldStVx x) s = .next { s with ST := s.v x, pc := s.pc + 2 }

/-- Rule R234: the sum wraps modulo 65536 (decision D9), VF is not written (decision D20), and under the quirk VF as source
leaves I alone. -/
def Obligations.AddToIndexWrapsWithoutFlag : Prop :=
  WordsDecode (fun _ => 0xF0FF) 0xF01E (fun op => .addI (xField op)) ∧
  ∀ (x : Reg) (s : State), ∃ t, exec (.addI x) s = .next t ∧
    t.I.toNat = (if x = 15 ∧ s.params.quirkVfAddExclusion = true then s.I.toNat
      else (s.I.toNat + (s.v x).toNat) % 65536) ∧
    t.pc = s.pc + 2 ∧ t = { s with I := t.I, pc := t.pc }

/-- LD F and LD HF (rules R235, R236; that LD F uses the low nibble is decision D18, that LD HF checks nothing is D46). -/
def Obligations.FontPointersAreComputed : Prop :=
  WordsDecode (fun _ => 0xF0FF) 0xF029 (fun op => .ldF (xField op)) ∧
  WordsDecode (fun _ => 0xF0FF) 0xF030 (fun op => .ldHF (xField op)) ∧
  ∀ (x : Reg) (s : State),
    (∃ t, exec (.ldF x) s = .next t ∧ t.I.toNat = 5 * ((s.v x).toNat % 16) ∧ t.pc = s.pc + 2 ∧
      t = { s with I := t.I, pc := t.pc }) ∧
    (∃ t, exec (.ldHF x) s = .next t ∧ t.I.toNat = 10 * (s.v x).toNat + 80 ∧ t.pc = s.pc + 2 ∧
      t = { s with I := t.I, pc := t.pc })

/-- LD B, Vx (rule R237), with the range check of rule R243 (decision D12), in a state whose memory is canonical
(EveryStepKeepsTheInvariant). -/
def Obligations.DecimalDigitsAreStored : Prop :=
  WordsDecode (fun _ => 0xF0FF) 0xF033 (fun op => .ldB (xField op)) ∧
  ∀ (x : Reg) (s : State), Memory.wf (initialByte s.params) s.mem = true →
    (s.I.toNat + 2 ≤ 0xFFF → ∃ t, exec (.ldB x) s = .next t ∧
      (t.readByte s.I.toNat).toNat = (s.v x).toNat / 100 ∧
      (t.readByte (s.I.toNat + 1)).toNat = (s.v x).toNat / 10 % 10 ∧
      (t.readByte (s.I.toNat + 2)).toNat = (s.v x).toNat % 10 ∧
      t.I = s.I ∧ t.pc = s.pc + 2 ∧ StoreFrame s.I.toNat 3 s t) ∧
    (0xFFF < s.I.toNat + 2 → ∃ t, exec (.ldB x) s = .next t ∧ Faults (.memoryOutOfRange (max s.I.toNat 0x1000)) s t)

/-- Rule R238, with the range check of rule R243 (decision D12) and I's increment by its parameter (decision D19), in a state
whose memory is canonical. -/
def Obligations.RegistersAreStoredAscending : Prop :=
  WordsDecode (fun _ => 0xF0FF) 0xF055 (fun op => .store (xField op)) ∧
  ∀ (x : Reg) (s : State), Memory.wf (initialByte s.params) s.mem = true →
    (s.I.toNat + x.val ≤ 0xFFF → ∃ t, exec (.store x) s = .next t ∧
      (∀ r : Reg, r.val ≤ x.val → t.readByte (s.I.toNat + r.val) = s.v r) ∧
      t.I.toNat = (if s.params.loadStoreIncrementsI = true then (s.I.toNat + (x.val + 1)) % 65536 else s.I.toNat) ∧
      t.pc = s.pc + 2 ∧ StoreFrame s.I.toNat (x.val + 1) s t) ∧
    (0xFFF < s.I.toNat + x.val → ∃ t, exec (.store x) s = .next t ∧
      Faults (.memoryOutOfRange (max s.I.toNat 0x1000)) s t)

/-- Rule R239, with the range check of rule R243 (decision D12) and I's increment by its parameter (decision D19). -/
def Obligations.RegistersAreLoadedAscending : Prop :=
  WordsDecode (fun _ => 0xF0FF) 0xF065 (fun op => .load (xField op)) ∧
  ∀ (x : Reg) (s : State),
    (s.I.toNat + x.val ≤ 0xFFF → ∃ t, exec (.load x) s = .next t ∧
      (∀ r : Reg, t.v r = if r.val ≤ x.val then s.readByte (s.I.toNat + r.val) else s.v r) ∧
      t.I.toNat = (if s.params.loadStoreIncrementsI = true then (s.I.toNat + (x.val + 1)) % 65536 else s.I.toNat) ∧
      t.pc = s.pc + 2 ∧ (∀ a, t.readByte a = s.readByte a) ∧ t = { s with V := t.V, I := t.I, pc := t.pc }) ∧
    (0xFFF < s.I.toNat + x.val → ∃ t, exec (.load x) s = .next t ∧
      Faults (.memoryOutOfRange (max s.I.toNat 0x1000)) s t)

/-- The round trip of rule R239's corner case and 95_test_vectors.md S7: a load from the I and x of an earlier store, in any
state that still has that memory, restores the registers stored. -/
def Obligations.StoreThenLoadRestoresRegisters : Prop :=
  ∀ (x : Reg) (s t u : State), Memory.wf (initialByte s.params) s.mem = true → s.I.toNat + x.val ≤ 0xFFF →
    exec (.store x) s = .next t → u.mem = t.mem → u.params = t.params → u.I = s.I →
    ∃ v, exec (.load x) u = .next v ∧ ∀ r : Reg, r.val ≤ x.val → v.v r = s.v r

/-- Rules R240 and R241 (the fault of x above 7 is decision D22). -/
def Obligations.RplFlagsAreSavedAndRestored : Prop :=
  WordsDecode (fun _ => 0xF0FF) 0xF075 (fun op => .storeR (xField op)) ∧
  WordsDecode (fun _ => 0xF0FF) 0xF085 (fun op => .loadR (xField op)) ∧
  ∀ (x : Reg) (s : State),
    (x.val < 8 →
      (∃ t, exec (.storeR x) s = .next t ∧
        (∀ (k : Fin 8) (r : Reg), r.val = k.val → t.aux[k] = if k.val ≤ x.val then s.v r else s.aux[k]) ∧
        t.pc = s.pc + 2 ∧ (∀ a, t.readByte a = s.readByte a) ∧ t = { s with aux := t.aux, pc := t.pc }) ∧
      (∃ t, exec (.loadR x) s = .next t ∧
        (∀ (k : Fin 8) (r : Reg), r.val = k.val → k.val ≤ x.val → t.v r = s.aux[k]) ∧
        t.pc = s.pc + 2 ∧ RegisterFrame (fun r => r.val ≤ x.val) s t)) ∧
    (8 ≤ x.val →
      (∃ t, exec (.storeR x) s = .next t ∧ Faults (.auxIndexOutOfRange x) s t) ∧
      (∃ t, exec (.loadR x) s = .next t ∧ Faults (.auxIndexOutOfRange x) s t))

/-- Rule R64: each byte written by LD [I], Vx or LD B, Vx is the byte that any later step fetches at its address, as the high
byte of the opcode or as the low one, with no delay, in any state that still has that memory. -/
def Obligations.StoredBytesAreFetched : Prop :=
  ∀ (s t u : State) (keyIn : BitVec 16) (rnd : Byte) (a : Nat) (b : Byte),
    Memory.wf (initialByte s.params) s.mem = true → u.mem = t.mem → u.params = t.params → u.Ready → u.CanFetch →
    ((∃ x r : Reg, r.val ≤ x.val ∧ s.I.toNat + x.val ≤ 0xFFF ∧ exec (.store x) s = .next t ∧
        a = s.I.toNat + r.val ∧ b = s.v r) ∨
      (∃ (x : Reg) (k : Fin 3), s.I.toNat + 2 ≤ 0xFFF ∧ exec (.ldB x) s = .next t ∧
        a = s.I.toNat + k.val ∧ b.toNat = (s.v x).toNat / 10 ^ (2 - k.val) % 10)) →
    (u.pc.toNat = a → stepCall keyIn rnd u =
      execWord (wordOfBytes b (u.readByte (a + 1))) { u with keys := keyIn, rnd := rnd, report := .ok }) ∧
    (u.pc.toNat + 1 = a → stepCall keyIn rnd u =
      execWord (wordOfBytes (u.readByte u.pc.toNat) b) { u with keys := keyIn, rnd := rnd, report := .ok })
end

