-- ==== Sys2Proof/Laws/State.lean ====
section
/-! SUPPORT. One lemma per field per update of the state, so that no later proof unfolds a record update. -/

namespace Sys2Proof.Machine

/-! ### `State.setV` -/

@[simp] theorem State.setV_mem (s : State) (x : Reg) (b : Byte) : (s.setV x b).mem = s.mem := rfl
@[simp] theorem State.setV_V (s : State) (x : Reg) (b : Byte) : (s.setV x b).V = s.V.set x b := rfl
@[simp] theorem State.setV_I (s : State) (x : Reg) (b : Byte) : (s.setV x b).I = s.I := rfl
@[simp] theorem State.setV_pc (s : State) (x : Reg) (b : Byte) : (s.setV x b).pc = s.pc := rfl
@[simp] theorem State.setV_stack (s : State) (x : Reg) (b : Byte) : (s.setV x b).stack = s.stack := rfl
@[simp] theorem State.setV_sp (s : State) (x : Reg) (b : Byte) : (s.setV x b).sp = s.sp := rfl
@[simp] theorem State.setV_DT (s : State) (x : Reg) (b : Byte) : (s.setV x b).DT = s.DT := rfl
@[simp] theorem State.setV_ST (s : State) (x : Reg) (b : Byte) : (s.setV x b).ST = s.ST := rfl
@[simp] theorem State.setV_keys (s : State) (x : Reg) (b : Byte) : (s.setV x b).keys = s.keys := rfl
@[simp] theorem State.setV_fb (s : State) (x : Reg) (b : Byte) : (s.setV x b).fb = s.fb := rfl
@[simp] theorem State.setV_ext (s : State) (x : Reg) (b : Byte) : (s.setV x b).ext = s.ext := rfl
@[simp] theorem State.setV_aux (s : State) (x : Reg) (b : Byte) : (s.setV x b).aux = s.aux := rfl
@[simp] theorem State.setV_ctl (s : State) (x : Reg) (b : Byte) : (s.setV x b).ctl = s.ctl := rfl
@[simp] theorem State.setV_dirty (s : State) (x : Reg) (b : Byte) : (s.setV x b).dirty = s.dirty := rfl
@[simp] theorem State.setV_fault (s : State) (x : Reg) (b : Byte) : (s.setV x b).fault = s.fault := rfl
@[simp] theorem State.setV_params (s : State) (x : Reg) (b : Byte) : (s.setV x b).params = s.params := rfl
@[simp] theorem State.setV_rnd (s : State) (x : Reg) (b : Byte) : (s.setV x b).rnd = s.rnd := rfl
@[simp] theorem State.setV_report (s : State) (x : Reg) (b : Byte) : (s.setV x b).report = s.report := rfl
@[simp] theorem State.setV_pending (s : State) (x : Reg) (b : Byte) : (s.setV x b).pending = s.pending := rfl
@[simp] theorem State.setV_draws (s : State) (x : Reg) (b : Byte) : (s.setV x b).draws = s.draws := rfl

/-! ### `State.takeFault` -/

@[simp] theorem State.takeFault_mem (s : State) (r : Fault) : (s.takeFault r).mem = s.mem := rfl
@[simp] theorem State.takeFault_V (s : State) (r : Fault) : (s.takeFault r).V = s.V := rfl
@[simp] theorem State.takeFault_I (s : State) (r : Fault) : (s.takeFault r).I = s.I := rfl
@[simp] theorem State.takeFault_pc (s : State) (r : Fault) : (s.takeFault r).pc = s.pc := rfl
@[simp] theorem State.takeFault_stack (s : State) (r : Fault) : (s.takeFault r).stack = s.stack := rfl
@[simp] theorem State.takeFault_sp (s : State) (r : Fault) : (s.takeFault r).sp = s.sp := rfl
@[simp] theorem State.takeFault_DT (s : State) (r : Fault) : (s.takeFault r).DT = s.DT := rfl
@[simp] theorem State.takeFault_ST (s : State) (r : Fault) : (s.takeFault r).ST = s.ST := rfl
@[simp] theorem State.takeFault_keys (s : State) (r : Fault) : (s.takeFault r).keys = s.keys := rfl
@[simp] theorem State.takeFault_fb (s : State) (r : Fault) : (s.takeFault r).fb = s.fb := rfl
@[simp] theorem State.takeFault_ext (s : State) (r : Fault) : (s.takeFault r).ext = s.ext := rfl
@[simp] theorem State.takeFault_aux (s : State) (r : Fault) : (s.takeFault r).aux = s.aux := rfl
@[simp] theorem State.takeFault_ctl (s : State) (r : Fault) : (s.takeFault r).ctl = s.ctl := rfl
@[simp] theorem State.takeFault_dirty (s : State) (r : Fault) : (s.takeFault r).dirty = s.dirty := rfl
@[simp] theorem State.takeFault_fault (s : State) (r : Fault) : (s.takeFault r).fault = some r := rfl
@[simp] theorem State.takeFault_params (s : State) (r : Fault) : (s.takeFault r).params = s.params := rfl
@[simp] theorem State.takeFault_rnd (s : State) (r : Fault) : (s.takeFault r).rnd = s.rnd := rfl
@[simp] theorem State.takeFault_report (s : State) (r : Fault) : (s.takeFault r).report = .faulted r := rfl
@[simp] theorem State.takeFault_pending (s : State) (r : Fault) : (s.takeFault r).pending = s.pending := rfl
@[simp] theorem State.takeFault_draws (s : State) (r : Fault) : (s.takeFault r).draws = s.draws := rfl

/-! ### `State.setFb` -/

@[simp] theorem State.setFb_mem (s : State) (fb : Framebuffer) : (s.setFb fb).mem = s.mem := rfl
@[simp] theorem State.setFb_V (s : State) (fb : Framebuffer) : (s.setFb fb).V = s.V := rfl
@[simp] theorem State.setFb_I (s : State) (fb : Framebuffer) : (s.setFb fb).I = s.I := rfl
@[simp] theorem State.setFb_pc (s : State) (fb : Framebuffer) : (s.setFb fb).pc = s.pc := rfl
@[simp] theorem State.setFb_stack (s : State) (fb : Framebuffer) : (s.setFb fb).stack = s.stack := rfl
@[simp] theorem State.setFb_sp (s : State) (fb : Framebuffer) : (s.setFb fb).sp = s.sp := rfl
@[simp] theorem State.setFb_DT (s : State) (fb : Framebuffer) : (s.setFb fb).DT = s.DT := rfl
@[simp] theorem State.setFb_ST (s : State) (fb : Framebuffer) : (s.setFb fb).ST = s.ST := rfl
@[simp] theorem State.setFb_keys (s : State) (fb : Framebuffer) : (s.setFb fb).keys = s.keys := rfl
@[simp] theorem State.setFb_fb (s : State) (fb : Framebuffer) : (s.setFb fb).fb = fb := rfl
@[simp] theorem State.setFb_ext (s : State) (fb : Framebuffer) : (s.setFb fb).ext = s.ext := rfl
@[simp] theorem State.setFb_aux (s : State) (fb : Framebuffer) : (s.setFb fb).aux = s.aux := rfl
@[simp] theorem State.setFb_ctl (s : State) (fb : Framebuffer) : (s.setFb fb).ctl = s.ctl := rfl
@[simp] theorem State.setFb_dirty (s : State) (fb : Framebuffer) : (s.setFb fb).dirty = true := rfl
@[simp] theorem State.setFb_fault (s : State) (fb : Framebuffer) : (s.setFb fb).fault = s.fault := rfl
@[simp] theorem State.setFb_params (s : State) (fb : Framebuffer) : (s.setFb fb).params = s.params := rfl
@[simp] theorem State.setFb_rnd (s : State) (fb : Framebuffer) : (s.setFb fb).rnd = s.rnd := rfl
@[simp] theorem State.setFb_report (s : State) (fb : Framebuffer) : (s.setFb fb).report = s.report := rfl
@[simp] theorem State.setFb_pending (s : State) (fb : Framebuffer) : (s.setFb fb).pending = s.pending := rfl
@[simp] theorem State.setFb_draws (s : State) (fb : Framebuffer) : (s.setFb fb).draws = s.draws := rfl

/-! ### `State.drawFb` -/

@[simp] theorem State.drawFb_mem (s : State) : (s.drawFb).mem = s.mem := by unfold State.drawFb; rfl
@[simp] theorem State.drawFb_V (s : State) : (s.drawFb).V = s.V := by unfold State.drawFb; rfl
@[simp] theorem State.drawFb_I (s : State) : (s.drawFb).I = s.I := by unfold State.drawFb; rfl
@[simp] theorem State.drawFb_pc (s : State) : (s.drawFb).pc = s.pc := by unfold State.drawFb; rfl
@[simp] theorem State.drawFb_stack (s : State) : (s.drawFb).stack = s.stack := by unfold State.drawFb; rfl
@[simp] theorem State.drawFb_sp (s : State) : (s.drawFb).sp = s.sp := by unfold State.drawFb; rfl
@[simp] theorem State.drawFb_DT (s : State) : (s.drawFb).DT = s.DT := by unfold State.drawFb; rfl
@[simp] theorem State.drawFb_ST (s : State) : (s.drawFb).ST = s.ST := by unfold State.drawFb; rfl
@[simp] theorem State.drawFb_keys (s : State) : (s.drawFb).keys = s.keys := by unfold State.drawFb; rfl
@[simp] theorem State.drawFb_fb (s : State) : (s.drawFb).fb = Framebuffer.free s.draws := by unfold State.drawFb; rfl
@[simp] theorem State.drawFb_ext (s : State) : (s.drawFb).ext = s.ext := by unfold State.drawFb; rfl
@[simp] theorem State.drawFb_aux (s : State) : (s.drawFb).aux = s.aux := by unfold State.drawFb; rfl
@[simp] theorem State.drawFb_ctl (s : State) : (s.drawFb).ctl = s.ctl := by unfold State.drawFb; rfl
@[simp] theorem State.drawFb_dirty (s : State) : (s.drawFb).dirty = true := by unfold State.drawFb; rfl
@[simp] theorem State.drawFb_fault (s : State) : (s.drawFb).fault = s.fault := by unfold State.drawFb; rfl
@[simp] theorem State.drawFb_params (s : State) : (s.drawFb).params = s.params := by unfold State.drawFb; rfl
@[simp] theorem State.drawFb_rnd (s : State) : (s.drawFb).rnd = s.rnd := by unfold State.drawFb; rfl
@[simp] theorem State.drawFb_report (s : State) : (s.drawFb).report = s.report := by unfold State.drawFb; rfl
@[simp] theorem State.drawFb_pending (s : State) : (s.drawFb).pending = s.pending := by unfold State.drawFb; rfl
@[simp] theorem State.drawFb_draws (s : State) : (s.drawFb).draws = s.draws + 1 := by unfold State.drawFb; rfl

/-! ### `State.beginStep` -/

@[simp] theorem State.beginStep_mem (s : State) (k : BitVec 16) (b : Byte) : (s.beginStep k b).mem = s.mem := rfl
@[simp] theorem State.beginStep_V (s : State) (k : BitVec 16) (b : Byte) : (s.beginStep k b).V = s.V := rfl
@[simp] theorem State.beginStep_I (s : State) (k : BitVec 16) (b : Byte) : (s.beginStep k b).I = s.I := rfl
@[simp] theorem State.beginStep_pc (s : State) (k : BitVec 16) (b : Byte) : (s.beginStep k b).pc = s.pc := rfl
@[simp] theorem State.beginStep_stack (s : State) (k : BitVec 16) (b : Byte) : (s.beginStep k b).stack = s.stack := rfl
@[simp] theorem State.beginStep_sp (s : State) (k : BitVec 16) (b : Byte) : (s.beginStep k b).sp = s.sp := rfl
@[simp] theorem State.beginStep_DT (s : State) (k : BitVec 16) (b : Byte) : (s.beginStep k b).DT = s.DT := rfl
@[simp] theorem State.beginStep_ST (s : State) (k : BitVec 16) (b : Byte) : (s.beginStep k b).ST = s.ST := rfl
@[simp] theorem State.beginStep_keys (s : State) (k : BitVec 16) (b : Byte) : (s.beginStep k b).keys = k := rfl
@[simp] theorem State.beginStep_fb (s : State) (k : BitVec 16) (b : Byte) : (s.beginStep k b).fb = s.fb := rfl
@[simp] theorem State.beginStep_ext (s : State) (k : BitVec 16) (b : Byte) : (s.beginStep k b).ext = s.ext := rfl
@[simp] theorem State.beginStep_aux (s : State) (k : BitVec 16) (b : Byte) : (s.beginStep k b).aux = s.aux := rfl
@[simp] theorem State.beginStep_ctl (s : State) (k : BitVec 16) (b : Byte) : (s.beginStep k b).ctl = s.ctl := rfl
@[simp] theorem State.beginStep_dirty (s : State) (k : BitVec 16) (b : Byte) : (s.beginStep k b).dirty = s.dirty := rfl
@[simp] theorem State.beginStep_fault (s : State) (k : BitVec 16) (b : Byte) : (s.beginStep k b).fault = s.fault := rfl
@[simp] theorem State.beginStep_params (s : State) (k : BitVec 16) (b : Byte) : (s.beginStep k b).params = s.params := rfl
@[simp] theorem State.beginStep_rnd (s : State) (k : BitVec 16) (b : Byte) : (s.beginStep k b).rnd = b := rfl
@[simp] theorem State.beginStep_report (s : State) (k : BitVec 16) (b : Byte) : (s.beginStep k b).report = .ok := rfl
@[simp] theorem State.beginStep_pending (s : State) (k : BitVec 16) (b : Byte) : (s.beginStep k b).pending = s.pending := rfl
@[simp] theorem State.beginStep_draws (s : State) (k : BitVec 16) (b : Byte) : (s.beginStep k b).draws = s.draws := rfl

/-! ### `State.tick` -/

@[simp] theorem State.tick_mem (s : State) : (s.tick).mem = s.mem := rfl
@[simp] theorem State.tick_V (s : State) : (s.tick).V = s.V := rfl
@[simp] theorem State.tick_I (s : State) : (s.tick).I = s.I := rfl
@[simp] theorem State.tick_pc (s : State) : (s.tick).pc = s.pc := rfl
@[simp] theorem State.tick_stack (s : State) : (s.tick).stack = s.stack := rfl
@[simp] theorem State.tick_sp (s : State) : (s.tick).sp = s.sp := rfl
@[simp] theorem State.tick_DT (s : State) : (s.tick).DT = countDown s.DT := rfl
@[simp] theorem State.tick_ST (s : State) : (s.tick).ST = countDown s.ST := rfl
@[simp] theorem State.tick_keys (s : State) : (s.tick).keys = s.keys := rfl
@[simp] theorem State.tick_fb (s : State) : (s.tick).fb = s.fb := rfl
@[simp] theorem State.tick_ext (s : State) : (s.tick).ext = s.ext := rfl
@[simp] theorem State.tick_aux (s : State) : (s.tick).aux = s.aux := rfl
@[simp] theorem State.tick_ctl (s : State) : (s.tick).ctl = s.ctl := rfl
@[simp] theorem State.tick_dirty (s : State) : (s.tick).dirty = s.dirty := rfl
@[simp] theorem State.tick_fault (s : State) : (s.tick).fault = s.fault := rfl
@[simp] theorem State.tick_params (s : State) : (s.tick).params = s.params := rfl
@[simp] theorem State.tick_rnd (s : State) : (s.tick).rnd = s.rnd := rfl
@[simp] theorem State.tick_report (s : State) : (s.tick).report = s.report := rfl
@[simp] theorem State.tick_pending (s : State) : (s.tick).pending = s.pending := rfl
@[simp] theorem State.tick_draws (s : State) : (s.tick).draws = s.draws := rfl

/-! ### `State.clearDirty` -/

@[simp] theorem State.clearDirty_mem (s : State) : (s.clearDirty).mem = s.mem := rfl
@[simp] theorem State.clearDirty_V (s : State) : (s.clearDirty).V = s.V := rfl
@[simp] theorem State.clearDirty_I (s : State) : (s.clearDirty).I = s.I := rfl
@[simp] theorem State.clearDirty_pc (s : State) : (s.clearDirty).pc = s.pc := rfl
@[simp] theorem State.clearDirty_stack (s : State) : (s.clearDirty).stack = s.stack := rfl
@[simp] theorem State.clearDirty_sp (s : State) : (s.clearDirty).sp = s.sp := rfl
@[simp] theorem State.clearDirty_DT (s : State) : (s.clearDirty).DT = s.DT := rfl
@[simp] theorem State.clearDirty_ST (s : State) : (s.clearDirty).ST = s.ST := rfl
@[simp] theorem State.clearDirty_keys (s : State) : (s.clearDirty).keys = s.keys := rfl
@[simp] theorem State.clearDirty_fb (s : State) : (s.clearDirty).fb = s.fb := rfl
@[simp] theorem State.clearDirty_ext (s : State) : (s.clearDirty).ext = s.ext := rfl
@[simp] theorem State.clearDirty_aux (s : State) : (s.clearDirty).aux = s.aux := rfl
@[simp] theorem State.clearDirty_ctl (s : State) : (s.clearDirty).ctl = s.ctl := rfl
@[simp] theorem State.clearDirty_dirty (s : State) : (s.clearDirty).dirty = false := rfl
@[simp] theorem State.clearDirty_fault (s : State) : (s.clearDirty).fault = s.fault := rfl
@[simp] theorem State.clearDirty_params (s : State) : (s.clearDirty).params = s.params := rfl
@[simp] theorem State.clearDirty_rnd (s : State) : (s.clearDirty).rnd = s.rnd := rfl
@[simp] theorem State.clearDirty_report (s : State) : (s.clearDirty).report = s.report := rfl
@[simp] theorem State.clearDirty_pending (s : State) : (s.clearDirty).pending = s.pending := rfl
@[simp] theorem State.clearDirty_draws (s : State) : (s.clearDirty).draws = s.draws := rfl

/-! ### `State.saveAux` -/

@[simp] theorem State.saveAux_mem (s : State) (x : Reg) : (s.saveAux x).mem = s.mem := by unfold State.saveAux; rfl
@[simp] theorem State.saveAux_V (s : State) (x : Reg) : (s.saveAux x).V = s.V := by unfold State.saveAux; rfl
@[simp] theorem State.saveAux_I (s : State) (x : Reg) : (s.saveAux x).I = s.I := by unfold State.saveAux; rfl
@[simp] theorem State.saveAux_pc (s : State) (x : Reg) : (s.saveAux x).pc = s.pc := by unfold State.saveAux; rfl
@[simp] theorem State.saveAux_stack (s : State) (x : Reg) : (s.saveAux x).stack = s.stack := by unfold State.saveAux; rfl
@[simp] theorem State.saveAux_sp (s : State) (x : Reg) : (s.saveAux x).sp = s.sp := by unfold State.saveAux; rfl
@[simp] theorem State.saveAux_DT (s : State) (x : Reg) : (s.saveAux x).DT = s.DT := by unfold State.saveAux; rfl
@[simp] theorem State.saveAux_ST (s : State) (x : Reg) : (s.saveAux x).ST = s.ST := by unfold State.saveAux; rfl
@[simp] theorem State.saveAux_keys (s : State) (x : Reg) : (s.saveAux x).keys = s.keys := by unfold State.saveAux; rfl
@[simp] theorem State.saveAux_fb (s : State) (x : Reg) : (s.saveAux x).fb = s.fb := by unfold State.saveAux; rfl
@[simp] theorem State.saveAux_ext (s : State) (x : Reg) : (s.saveAux x).ext = s.ext := by unfold State.saveAux; rfl
@[simp] theorem State.saveAux_ctl (s : State) (x : Reg) : (s.saveAux x).ctl = s.ctl := by unfold State.saveAux; rfl
@[simp] theorem State.saveAux_dirty (s : State) (x : Reg) : (s.saveAux x).dirty = s.dirty := by unfold State.saveAux; rfl
@[simp] theorem State.saveAux_fault (s : State) (x : Reg) : (s.saveAux x).fault = s.fault := by unfold State.saveAux; rfl
@[simp] theorem State.saveAux_params (s : State) (x : Reg) : (s.saveAux x).params = s.params := by unfold State.saveAux; rfl
@[simp] theorem State.saveAux_rnd (s : State) (x : Reg) : (s.saveAux x).rnd = s.rnd := by unfold State.saveAux; rfl
@[simp] theorem State.saveAux_report (s : State) (x : Reg) : (s.saveAux x).report = s.report := by unfold State.saveAux; rfl
@[simp] theorem State.saveAux_pending (s : State) (x : Reg) : (s.saveAux x).pending = s.pending := by unfold State.saveAux; rfl
@[simp] theorem State.saveAux_draws (s : State) (x : Reg) : (s.saveAux x).draws = s.draws := by unfold State.saveAux; rfl

/-! ### `State.loadUpTo` -/

@[simp] theorem State.loadUpTo_mem (s : State) (x : Reg) (f : Nat → Byte) : (s.loadUpTo x f).mem = s.mem := by unfold State.loadUpTo; rfl
@[simp] theorem State.loadUpTo_I (s : State) (x : Reg) (f : Nat → Byte) : (s.loadUpTo x f).I = s.I := by unfold State.loadUpTo; rfl
@[simp] theorem State.loadUpTo_pc (s : State) (x : Reg) (f : Nat → Byte) : (s.loadUpTo x f).pc = s.pc := by unfold State.loadUpTo; rfl
@[simp] theorem State.loadUpTo_stack (s : State) (x : Reg) (f : Nat → Byte) : (s.loadUpTo x f).stack = s.stack := by unfold State.loadUpTo; rfl
@[simp] theorem State.loadUpTo_sp (s : State) (x : Reg) (f : Nat → Byte) : (s.loadUpTo x f).sp = s.sp := by unfold State.loadUpTo; rfl
@[simp] theorem State.loadUpTo_DT (s : State) (x : Reg) (f : Nat → Byte) : (s.loadUpTo x f).DT = s.DT := by unfold State.loadUpTo; rfl
@[simp] theorem State.loadUpTo_ST (s : State) (x : Reg) (f : Nat → Byte) : (s.loadUpTo x f).ST = s.ST := by unfold State.loadUpTo; rfl
@[simp] theorem State.loadUpTo_keys (s : State) (x : Reg) (f : Nat → Byte) : (s.loadUpTo x f).keys = s.keys := by unfold State.loadUpTo; rfl
@[simp] theorem State.loadUpTo_fb (s : State) (x : Reg) (f : Nat → Byte) : (s.loadUpTo x f).fb = s.fb := by unfold State.loadUpTo; rfl
@[simp] theorem State.loadUpTo_ext (s : State) (x : Reg) (f : Nat → Byte) : (s.loadUpTo x f).ext = s.ext := by unfold State.loadUpTo; rfl
@[simp] theorem State.loadUpTo_aux (s : State) (x : Reg) (f : Nat → Byte) : (s.loadUpTo x f).aux = s.aux := by unfold State.loadUpTo; rfl
@[simp] theorem State.loadUpTo_ctl (s : State) (x : Reg) (f : Nat → Byte) : (s.loadUpTo x f).ctl = s.ctl := by unfold State.loadUpTo; rfl
@[simp] theorem State.loadUpTo_dirty (s : State) (x : Reg) (f : Nat → Byte) : (s.loadUpTo x f).dirty = s.dirty := by unfold State.loadUpTo; rfl
@[simp] theorem State.loadUpTo_fault (s : State) (x : Reg) (f : Nat → Byte) : (s.loadUpTo x f).fault = s.fault := by unfold State.loadUpTo; rfl
@[simp] theorem State.loadUpTo_params (s : State) (x : Reg) (f : Nat → Byte) : (s.loadUpTo x f).params = s.params := by unfold State.loadUpTo; rfl
@[simp] theorem State.loadUpTo_rnd (s : State) (x : Reg) (f : Nat → Byte) : (s.loadUpTo x f).rnd = s.rnd := by unfold State.loadUpTo; rfl
@[simp] theorem State.loadUpTo_report (s : State) (x : Reg) (f : Nat → Byte) : (s.loadUpTo x f).report = s.report := by unfold State.loadUpTo; rfl
@[simp] theorem State.loadUpTo_pending (s : State) (x : Reg) (f : Nat → Byte) : (s.loadUpTo x f).pending = s.pending := by unfold State.loadUpTo; rfl
@[simp] theorem State.loadUpTo_draws (s : State) (x : Reg) (f : Nat → Byte) : (s.loadUpTo x f).draws = s.draws := by unfold State.loadUpTo; rfl

/-! ### `State.writeByte` -/

@[simp] theorem State.writeByte_V (s : State) (a : Nat) (b : Byte) : (s.writeByte a b).V = s.V := by unfold State.writeByte; split <;> rfl
@[simp] theorem State.writeByte_I (s : State) (a : Nat) (b : Byte) : (s.writeByte a b).I = s.I := by unfold State.writeByte; split <;> rfl
@[simp] theorem State.writeByte_pc (s : State) (a : Nat) (b : Byte) : (s.writeByte a b).pc = s.pc := by unfold State.writeByte; split <;> rfl
@[simp] theorem State.writeByte_stack (s : State) (a : Nat) (b : Byte) : (s.writeByte a b).stack = s.stack := by unfold State.writeByte; split <;> rfl
@[simp] theorem State.writeByte_sp (s : State) (a : Nat) (b : Byte) : (s.writeByte a b).sp = s.sp := by unfold State.writeByte; split <;> rfl
@[simp] theorem State.writeByte_DT (s : State) (a : Nat) (b : Byte) : (s.writeByte a b).DT = s.DT := by unfold State.writeByte; split <;> rfl
@[simp] theorem State.writeByte_ST (s : State) (a : Nat) (b : Byte) : (s.writeByte a b).ST = s.ST := by unfold State.writeByte; split <;> rfl
@[simp] theorem State.writeByte_keys (s : State) (a : Nat) (b : Byte) : (s.writeByte a b).keys = s.keys := by unfold State.writeByte; split <;> rfl
@[simp] theorem State.writeByte_fb (s : State) (a : Nat) (b : Byte) : (s.writeByte a b).fb = s.fb := by unfold State.writeByte; split <;> rfl
@[simp] theorem State.writeByte_ext (s : State) (a : Nat) (b : Byte) : (s.writeByte a b).ext = s.ext := by unfold State.writeByte; split <;> rfl
@[simp] theorem State.writeByte_aux (s : State) (a : Nat) (b : Byte) : (s.writeByte a b).aux = s.aux := by unfold State.writeByte; split <;> rfl
@[simp] theorem State.writeByte_ctl (s : State) (a : Nat) (b : Byte) : (s.writeByte a b).ctl = s.ctl := by unfold State.writeByte; split <;> rfl
@[simp] theorem State.writeByte_dirty (s : State) (a : Nat) (b : Byte) : (s.writeByte a b).dirty = s.dirty := by unfold State.writeByte; split <;> rfl
@[simp] theorem State.writeByte_fault (s : State) (a : Nat) (b : Byte) : (s.writeByte a b).fault = s.fault := by unfold State.writeByte; split <;> rfl
@[simp] theorem State.writeByte_params (s : State) (a : Nat) (b : Byte) : (s.writeByte a b).params = s.params := by unfold State.writeByte; split <;> rfl
@[simp] theorem State.writeByte_rnd (s : State) (a : Nat) (b : Byte) : (s.writeByte a b).rnd = s.rnd := by unfold State.writeByte; split <;> rfl
@[simp] theorem State.writeByte_report (s : State) (a : Nat) (b : Byte) : (s.writeByte a b).report = s.report := by unfold State.writeByte; split <;> rfl
@[simp] theorem State.writeByte_pending (s : State) (a : Nat) (b : Byte) : (s.writeByte a b).pending = s.pending := by unfold State.writeByte; split <;> rfl
@[simp] theorem State.writeByte_draws (s : State) (a : Nat) (b : Byte) : (s.writeByte a b).draws = s.draws := by unfold State.writeByte; split <;> rfl

/-! ### `State.blockIncrement` -/

@[simp] theorem State.blockIncrement_mem (s : State) (x : Reg) : (s.blockIncrement x).mem = s.mem := by unfold State.blockIncrement; split <;> rfl
@[simp] theorem State.blockIncrement_V (s : State) (x : Reg) : (s.blockIncrement x).V = s.V := by unfold State.blockIncrement; split <;> rfl
@[simp] theorem State.blockIncrement_pc (s : State) (x : Reg) : (s.blockIncrement x).pc = s.pc := by unfold State.blockIncrement; split <;> rfl
@[simp] theorem State.blockIncrement_stack (s : State) (x : Reg) : (s.blockIncrement x).stack = s.stack := by unfold State.blockIncrement; split <;> rfl
@[simp] theorem State.blockIncrement_sp (s : State) (x : Reg) : (s.blockIncrement x).sp = s.sp := by unfold State.blockIncrement; split <;> rfl
@[simp] theorem State.blockIncrement_DT (s : State) (x : Reg) : (s.blockIncrement x).DT = s.DT := by unfold State.blockIncrement; split <;> rfl
@[simp] theorem State.blockIncrement_ST (s : State) (x : Reg) : (s.blockIncrement x).ST = s.ST := by unfold State.blockIncrement; split <;> rfl
@[simp] theorem State.blockIncrement_keys (s : State) (x : Reg) : (s.blockIncrement x).keys = s.keys := by unfold State.blockIncrement; split <;> rfl
@[simp] theorem State.blockIncrement_fb (s : State) (x : Reg) : (s.blockIncrement x).fb = s.fb := by unfold State.blockIncrement; split <;> rfl
@[simp] theorem State.blockIncrement_ext (s : State) (x : Reg) : (s.blockIncrement x).ext = s.ext := by unfold State.blockIncrement; split <;> rfl
@[simp] theorem State.blockIncrement_aux (s : State) (x : Reg) : (s.blockIncrement x).aux = s.aux := by unfold State.blockIncrement; split <;> rfl
@[simp] theorem State.blockIncrement_ctl (s : State) (x : Reg) : (s.blockIncrement x).ctl = s.ctl := by unfold State.blockIncrement; split <;> rfl
@[simp] theorem State.blockIncrement_dirty (s : State) (x : Reg) : (s.blockIncrement x).dirty = s.dirty := by unfold State.blockIncrement; split <;> rfl
@[simp] theorem State.blockIncrement_fault (s : State) (x : Reg) : (s.blockIncrement x).fault = s.fault := by unfold State.blockIncrement; split <;> rfl
@[simp] theorem State.blockIncrement_params (s : State) (x : Reg) : (s.blockIncrement x).params = s.params := by unfold State.blockIncrement; split <;> rfl
@[simp] theorem State.blockIncrement_rnd (s : State) (x : Reg) : (s.blockIncrement x).rnd = s.rnd := by unfold State.blockIncrement; split <;> rfl
@[simp] theorem State.blockIncrement_report (s : State) (x : Reg) : (s.blockIncrement x).report = s.report := by unfold State.blockIncrement; split <;> rfl
@[simp] theorem State.blockIncrement_pending (s : State) (x : Reg) : (s.blockIncrement x).pending = s.pending := by unfold State.blockIncrement; split <;> rfl
@[simp] theorem State.blockIncrement_draws (s : State) (x : Reg) : (s.blockIncrement x).draws = s.draws := by unfold State.blockIncrement; split <;> rfl

/-! ### `State.writeBytes` -/

@[simp] theorem State.writeBytes_V (s : State) (a : Nat) (bs : List Byte) : (s.writeBytes a bs).V = s.V := by
  induction bs generalizing s a <;> simp_all [State.writeBytes]
@[simp] theorem State.writeBytes_I (s : State) (a : Nat) (bs : List Byte) : (s.writeBytes a bs).I = s.I := by
  induction bs generalizing s a <;> simp_all [State.writeBytes]
@[simp] theorem State.writeBytes_pc (s : State) (a : Nat) (bs : List Byte) : (s.writeBytes a bs).pc = s.pc := by
  induction bs generalizing s a <;> simp_all [State.writeBytes]
@[simp] theorem State.writeBytes_stack (s : State) (a : Nat) (bs : List Byte) : (s.writeBytes a bs).stack = s.stack := by
  induction bs generalizing s a <;> simp_all [State.writeBytes]
@[simp] theorem State.writeBytes_sp (s : State) (a : Nat) (bs : List Byte) : (s.writeBytes a bs).sp = s.sp := by
  induction bs generalizing s a <;> simp_all [State.writeBytes]
@[simp] theorem State.writeBytes_DT (s : State) (a : Nat) (bs : List Byte) : (s.writeBytes a bs).DT = s.DT := by
  induction bs generalizing s a <;> simp_all [State.writeBytes]
@[simp] theorem State.writeBytes_ST (s : State) (a : Nat) (bs : List Byte) : (s.writeBytes a bs).ST = s.ST := by
  induction bs generalizing s a <;> simp_all [State.writeBytes]
@[simp] theorem State.writeBytes_keys (s : State) (a : Nat) (bs : List Byte) : (s.writeBytes a bs).keys = s.keys := by
  induction bs generalizing s a <;> simp_all [State.writeBytes]
@[simp] theorem State.writeBytes_fb (s : State) (a : Nat) (bs : List Byte) : (s.writeBytes a bs).fb = s.fb := by
  induction bs generalizing s a <;> simp_all [State.writeBytes]
@[simp] theorem State.writeBytes_ext (s : State) (a : Nat) (bs : List Byte) : (s.writeBytes a bs).ext = s.ext := by
  induction bs generalizing s a <;> simp_all [State.writeBytes]
@[simp] theorem State.writeBytes_aux (s : State) (a : Nat) (bs : List Byte) : (s.writeBytes a bs).aux = s.aux := by
  induction bs generalizing s a <;> simp_all [State.writeBytes]
@[simp] theorem State.writeBytes_ctl (s : State) (a : Nat) (bs : List Byte) : (s.writeBytes a bs).ctl = s.ctl := by
  induction bs generalizing s a <;> simp_all [State.writeBytes]
@[simp] theorem State.writeBytes_dirty (s : State) (a : Nat) (bs : List Byte) : (s.writeBytes a bs).dirty = s.dirty := by
  induction bs generalizing s a <;> simp_all [State.writeBytes]
@[simp] theorem State.writeBytes_fault (s : State) (a : Nat) (bs : List Byte) : (s.writeBytes a bs).fault = s.fault := by
  induction bs generalizing s a <;> simp_all [State.writeBytes]
@[simp] theorem State.writeBytes_params (s : State) (a : Nat) (bs : List Byte) : (s.writeBytes a bs).params = s.params := by
  induction bs generalizing s a <;> simp_all [State.writeBytes]
@[simp] theorem State.writeBytes_rnd (s : State) (a : Nat) (bs : List Byte) : (s.writeBytes a bs).rnd = s.rnd := by
  induction bs generalizing s a <;> simp_all [State.writeBytes]
@[simp] theorem State.writeBytes_report (s : State) (a : Nat) (bs : List Byte) : (s.writeBytes a bs).report = s.report := by
  induction bs generalizing s a <;> simp_all [State.writeBytes]
@[simp] theorem State.writeBytes_pending (s : State) (a : Nat) (bs : List Byte) : (s.writeBytes a bs).pending = s.pending := by
  induction bs generalizing s a <;> simp_all [State.writeBytes]
@[simp] theorem State.writeBytes_draws (s : State) (a : Nat) (bs : List Byte) : (s.writeBytes a bs).draws = s.draws := by
  induction bs generalizing s a <;> simp_all [State.writeBytes]

/-! ### `State.writeRF` -/

@[simp] theorem State.writeRF_mem (s : State) (x : Reg) (r f : Byte) : (s.writeRF x r f).mem = s.mem := by
  unfold State.writeRF; split <;> (try split) <;> rfl
@[simp] theorem State.writeRF_I (s : State) (x : Reg) (r f : Byte) : (s.writeRF x r f).I = s.I := by
  unfold State.writeRF; split <;> (try split) <;> rfl
@[simp] theorem State.writeRF_pc (s : State) (x : Reg) (r f : Byte) : (s.writeRF x r f).pc = s.pc := by
  unfold State.writeRF; split <;> (try split) <;> rfl
@[simp] theorem State.writeRF_stack (s : State) (x : Reg) (r f : Byte) : (s.writeRF x r f).stack = s.stack := by
  unfold State.writeRF; split <;> (try split) <;> rfl
@[simp] theorem State.writeRF_sp (s : State) (x : Reg) (r f : Byte) : (s.writeRF x r f).sp = s.sp := by
  unfold State.writeRF; split <;> (try split) <;> rfl
@[simp] theorem State.writeRF_DT (s : State) (x : Reg) (r f : Byte) : (s.writeRF x r f).DT = s.DT := by
  unfold State.writeRF; split <;> (try split) <;> rfl
@[simp] theorem State.writeRF_ST (s : State) (x : Reg) (r f : Byte) : (s.writeRF x r f).ST = s.ST := by
  unfold State.writeRF; split <;> (try split) <;> rfl
@[simp] theorem State.writeRF_keys (s : State) (x : Reg) (r f : Byte) : (s.writeRF x r f).keys = s.keys := by
  unfold State.writeRF; split <;> (try split) <;> rfl
@[simp] theorem State.writeRF_fb (s : State) (x : Reg) (r f : Byte) : (s.writeRF x r f).fb = s.fb := by
  unfold State.writeRF; split <;> (try split) <;> rfl
@[simp] theorem State.writeRF_ext (s : State) (x : Reg) (r f : Byte) : (s.writeRF x r f).ext = s.ext := by
  unfold State.writeRF; split <;> (try split) <;> rfl
@[simp] theorem State.writeRF_aux (s : State) (x : Reg) (r f : Byte) : (s.writeRF x r f).aux = s.aux := by
  unfold State.writeRF; split <;> (try split) <;> rfl
@[simp] theorem State.writeRF_ctl (s : State) (x : Reg) (r f : Byte) : (s.writeRF x r f).ctl = s.ctl := by
  unfold State.writeRF; split <;> (try split) <;> rfl
@[simp] theorem State.writeRF_dirty (s : State) (x : Reg) (r f : Byte) : (s.writeRF x r f).dirty = s.dirty := by
  unfold State.writeRF; split <;> (try split) <;> rfl
@[simp] theorem State.writeRF_fault (s : State) (x : Reg) (r f : Byte) : (s.writeRF x r f).fault = s.fault := by
  unfold State.writeRF; split <;> (try split) <;> rfl
@[simp] theorem State.writeRF_params (s : State) (x : Reg) (r f : Byte) : (s.writeRF x r f).params = s.params := by
  unfold State.writeRF; split <;> (try split) <;> rfl
@[simp] theorem State.writeRF_rnd (s : State) (x : Reg) (r f : Byte) : (s.writeRF x r f).rnd = s.rnd := by
  unfold State.writeRF; split <;> (try split) <;> rfl
@[simp] theorem State.writeRF_report (s : State) (x : Reg) (r f : Byte) : (s.writeRF x r f).report = s.report := by
  unfold State.writeRF; split <;> (try split) <;> rfl
@[simp] theorem State.writeRF_pending (s : State) (x : Reg) (r f : Byte) : (s.writeRF x r f).pending = s.pending := by
  unfold State.writeRF; split <;> (try split) <;> rfl

end Sys2Proof.Machine
end

