-- ==== Sys2Proof/Laws/Registers.lean ====
section
/-! SUPPORT. The laws of the register operations: what each register reads after an update. -/

namespace Sys2Proof.Machine

theorem State.v_congr {s t : State} (h : t.V = s.V) (r : Reg) : t.v r = s.v r := by
  unfold State.v; rw [h]

@[simp] theorem State.v_setV (s : State) (x : Reg) (b : Byte) (r : Reg) :
    (s.setV x b).v r = if r = x then b else s.v r := by
  unfold State.v State.setV
  simp only [Fin.getElem_fin]
  by_cases h : r = x
  · subst h; simp
  · rw [if_neg h, Vector.getElem_set_ne]
    exact fun e => h (Fin.ext e.symm)

/-- `V` is the only field that a register write changes. -/
theorem State.setV_eq (s : State) (x : Reg) (b : Byte) : s.setV x b = { s with V := (s.setV x b).V } := rfl

@[simp] theorem State.v_loadUpTo (s : State) (x : Reg) (f : Nat → Byte) (r : Reg) :
    (s.loadUpTo x f).v r = if r.val ≤ x.val then f r.val else s.v r := by
  unfold State.v State.loadUpTo
  simp

/-- `I` is the only field that the block increment changes (rules R238, R239). -/
theorem State.blockIncrement_eq (s : State) (x : Reg) :
    s.blockIncrement x =
      { s with I := if s.params.loadStoreIncrementsI = true then s.I + BitVec.ofNat 16 (x.val + 1) else s.I } := by
  unfold State.blockIncrement; split <;> rfl

/-- `V` is the only field that a block of register loads changes. -/
theorem State.loadUpTo_eq (s : State) (x : Reg) (f : Nat → Byte) :
    s.loadUpTo x f = { s with V := (s.loadUpTo x f).V } := rfl

/-- `aux` is the only field that LD R changes. -/
theorem State.saveAux_eq (s : State) (x : Reg) : s.saveAux x = { s with aux := (s.saveAux x).aux } := rfl

theorem State.auxByte_of_lt (s : State) {k : Nat} (h : k < 8) : s.auxByte k = s.aux[k] := by
  unfold State.auxByte; rw [dif_pos h]

theorem State.auxByte_saveAux (s : State) (x : Reg) (k : Fin 8) :
    (s.saveAux x).auxByte k.val = if k.val ≤ x.val then s.v ⟨k.val, by omega⟩ else s.auxByte k.val := by
  simp only [State.auxByte_of_lt _ k.isLt]
  unfold State.saveAux State.v
  simp

theorem State.length_regsUpTo (s : State) (x : Reg) : (s.regsUpTo x).length = x.val + 1 := by
  unfold State.regsUpTo; simp

theorem State.getElem_regsUpTo (s : State) (x : Reg) {k : Nat} (h : k < (s.regsUpTo x).length) :
    (s.regsUpTo x)[k] = s.v ⟨k, by rw [State.length_regsUpTo] at h; omega⟩ := by
  have : (s.regsUpTo x)[k]? = some (s.V[k]'(by rw [State.length_regsUpTo] at h; omega)) := by
    rw [State.length_regsUpTo] at h
    unfold State.regsUpTo
    rw [List.getElem?_take_of_lt h]
    simp
  rw [List.getElem?_eq_getElem h] at this
  exact Option.some.inj this

/-- The result and the flag go to two registers unless the destination is VF (rule R136). -/
theorem State.writeRF_of_ne (s : State) {x : Reg} (h : x ≠ vf) (r f : Byte) : s.writeRF x r f = (s.setV x r).setV vf f := by
  unfold State.writeRF; rw [if_pos h]

theorem State.writeRF_flagLast {s : State} (h : s.params.vfResultOrder = .flagLast) (r f : Byte) :
    s.writeRF vf r f = s.setV vf f := by
  unfold State.writeRF; rw [if_neg (by simp)]; simp only [h]

theorem State.writeRF_resultLast {s : State} (h : s.params.vfResultOrder = .resultLast) (r f : Byte) :
    s.writeRF vf r f = s.setV vf r := by
  unfold State.writeRF; rw [if_neg (by simp)]; simp only [h]

/-- Under `unspecified`, VF becomes a free byte and the draw counter advances (rule R136). -/
theorem State.writeRF_unspecified {s : State} (h : s.params.vfResultOrder = .unspecified) (r f : Byte) :
    s.writeRF vf r f = ({ s with draws := s.draws + 1 }).setV vf (Config.freeByte s.draws) := by
  unfold State.writeRF; rw [if_neg (by simp)]; simp only [h]; rfl

/-- `V` and the draw counter are the only fields that a result and flag write changes (rule R136). -/
theorem State.writeRF_eq (s : State) (x : Reg) (r f : Byte) :
    s.writeRF x r f = { s with V := (s.writeRF x r f).V, draws := (s.writeRF x r f).draws } := by
  unfold State.writeRF; split
  · rfl
  · split <;> rfl

/-- A result and flag write leaves every register but x and VF alone. -/
theorem State.v_writeRF_other (s : State) {x r : Reg} (res f : Byte) (hx : r ≠ x) (hf : r ≠ vf) :
    (s.writeRF x res f).v r = s.v r := by
  unfold State.writeRF
  split
  · simp [hx, hf]
  · split
    · rw [State.v_setV, if_neg hf]; rfl
    · rw [State.v_setV, if_neg hf]
    · rw [State.v_setV, if_neg hf]

end Sys2Proof.Machine
end

