-- ==== Sys2Proof/Laws/Display.lean ====
section
/-! SUPPORT. The laws of the framebuffer: every operation is described by the pixel it leaves in each cell. -/

namespace Sys2Proof.Machine

theorem Framebuffer.pixel_of_not_lt (fb : Framebuffer) {y : Nat} (h : ¬ y < 64) (x : Nat) : Framebuffer.pixel fb y x = false := by
  unfold Framebuffer.pixel; rw [dif_neg h]

theorem Framebuffer.pixel_of_lt (fb : Framebuffer) {y : Nat} (h : y < 64) (x : Nat) :
    Framebuffer.pixel fb y x = fb[y].getLsbD x := by
  unfold Framebuffer.pixel; rw [dif_pos h]

theorem Framebuffer.pixel_of_width (fb : Framebuffer) (y : Nat) {x : Nat} (h : ¬ x < 128) : Framebuffer.pixel fb y x = false := by
  unfold Framebuffer.pixel
  split
  · exact BitVec.getLsbD_of_ge _ _ (by omega)
  · rfl

/-- Two framebuffers with the same pixels are equal. -/
theorem Framebuffer.ext_pixel {fb fb' : Framebuffer}
    (h : ∀ y x, y < 64 → x < 128 → Framebuffer.pixel fb y x = Framebuffer.pixel fb' y x) : fb = fb' := by
  apply Vector.ext
  intro y hy
  apply BitVec.eq_of_getLsbD_eq
  intro x hx
  have := h y x hy hx
  rwa [Framebuffer.pixel_of_lt _ hy, Framebuffer.pixel_of_lt _ hy] at this

theorem getLsbD_rowOf (f : Nat → Bool) {k : Nat} (hk : k ≤ 128) (x : Nat) :
    (rowOf f k).getLsbD x = (decide (x < k) && f x) := by
  induction k with
  | zero => simp [rowOf]
  | succ k ih =>
    have ih := ih (by omega)
    unfold rowOf
    by_cases hx : x = k
    · subst hx
      split <;> simp_all
    · have : (x < k + 1) = (x < k) := by simp; omega
      split <;> simp [ih, this, BitVec.getLsbD_twoPow, Ne.symm hx]

@[simp] theorem Framebuffer.pixel_build (f : Nat → Nat → Bool) (y x : Nat) :
    Framebuffer.pixel (Framebuffer.build f) y x = (decide (y < 64 ∧ x < 128) && f y x) := by
  unfold Framebuffer.pixel Framebuffer.build
  split
  · simp [getLsbD_rowOf, *]
  · simp [*]

@[simp] theorem Framebuffer.pixel_blank (y x : Nat) : Framebuffer.pixel Framebuffer.blank y x = false := by
  unfold Framebuffer.pixel Framebuffer.blank
  split <;> simp

/-- A toggle flips its own pixel, if it is a cell of the store, and no other. -/
theorem Framebuffer.pixel_toggle (fb : Framebuffer) (cy cx y x : Nat) :
    Framebuffer.pixel (Framebuffer.toggle fb cy cx) y x =
      (Framebuffer.pixel fb y x ^^ decide (y = cy ∧ x = cx ∧ y < 64 ∧ x < 128)) := by
  unfold Framebuffer.toggle
  by_cases hcy : cy < 64
  · rw [dif_pos hcy]
    by_cases hy : y < 64
    · rw [Framebuffer.pixel_of_lt _ hy, Framebuffer.pixel_of_lt _ hy]
      by_cases h : y = cy
      · subst h
        simp only [Vector.getElem_set_self, BitVec.getLsbD_xor, BitVec.getLsbD_twoPow]
        by_cases hx : x = cx <;> simp [hx, hy, Ne.symm]
      · rw [Vector.getElem_set_ne _ _ (by omega)]
        simp [h]
    · simp [Framebuffer.pixel_of_not_lt _ hy, hy]
  · rw [dif_neg hcy]
    by_cases h : y = cy
    · subst h; simp [hcy]
    · simp [h]

@[simp] theorem Framebuffer.pixel_scrolledDown (n w h : Nat) (fb : Framebuffer) (y x : Nat) :
    Framebuffer.pixel (scrolledDown n w h fb) y x = (decide (y < 64 ∧ x < 128) &&
      if y < h ∧ x < w then (if y ≥ n then Framebuffer.pixel fb (y - n) x else false) else Framebuffer.pixel fb y x) := by
  unfold scrolledDown; rw [Framebuffer.pixel_build]

@[simp] theorem Framebuffer.pixel_scrolledRight (w h : Nat) (fb : Framebuffer) (y x : Nat) :
    Framebuffer.pixel (scrolledRight w h fb) y x = (decide (y < 64 ∧ x < 128) &&
      if y < h ∧ x < w then (if x ≥ 4 then Framebuffer.pixel fb y (x - 4) else false) else Framebuffer.pixel fb y x) := by
  unfold scrolledRight; rw [Framebuffer.pixel_build]

@[simp] theorem Framebuffer.pixel_scrolledLeft (w h : Nat) (fb : Framebuffer) (y x : Nat) :
    Framebuffer.pixel (scrolledLeft w h fb) y x = (decide (y < 64 ∧ x < 128) &&
      if y < h ∧ x < w then (if x < w - 4 then Framebuffer.pixel fb y (x + 4) else false) else Framebuffer.pixel fb y x) := by
  unfold scrolledLeft; rw [Framebuffer.pixel_build]

/-! ### Placement -/

/-- A placed pixel is a cell of the store, wherever the draw's row check has passed (rule R172). -/
theorem place_range {ext : Bool} {bv : BaseVertical} {ax ay cy cx : Nat} (h : place ext bv ax ay = some (cy, cx))
    (hrow : ext = false → bv = .fault → ay < 32) : cy < activeHeight ext ∧ cx < activeWidth ext := by
  unfold place at h
  unfold activeHeight activeWidth
  split at h
  · split at h <;> simp_all
  · have := Nat.mod_lt ax (show 0 < 64 by decide)
    have := Nat.mod_lt ay (show 0 < 32 by decide)
    split at h
    · simp_all
    · split at h <;> simp_all
    · simp_all

end Sys2Proof.Machine
end

