-- ==== Sys2Proof/Laws/Encoding.lean ====
section
/-! SUPPORT. The fields of an encoded word, one lemma per field per format (rules R72, R74), and of a word of two bytes. -/

namespace Sys2Proof

@[simp] theorem toFin_nibble (x : Fin 16) : (nibble x).toFin = x := rfl

/-! ### Format A -/

@[simp] theorem opField_encodeA (o : BitVec 4) (a : BitVec 12) : opField (encodeA o a) = o :=
  BitVec.extractLsb'_append_eq_left

@[simp] theorem nnnField_encodeA (o : BitVec 4) (a : BitVec 12) : nnnField (encodeA o a) = a :=
  BitVec.extractLsb'_append_eq_right

/-! ### Formats XI and XS -/

@[simp] theorem opField_encodeX (o : BitVec 4) (x : Reg) (nn : Byte) : opField (encodeX o x nn) = o :=
  BitVec.extractLsb'_append_eq_left

@[simp] theorem xField_encodeX (o : BitVec 4) (x : Reg) (nn : Byte) : xField (encodeX o x nn) = x := by
  have : (encodeX o x nn).extractLsb' 8 4 = nibble x := by
    unfold encodeX
    rw [BitVec.extractLsb'_append_eq_of_add_le (by omega), BitVec.extractLsb'_append_eq_left]
  unfold xField; rw [this]; rfl

@[simp] theorem nnField_encodeX (o : BitVec 4) (x : Reg) (nn : Byte) : nnField (encodeX o x nn) = nn := by
  unfold nnField encodeX
  rw [BitVec.extractLsb'_append_eq_of_add_le (by omega), BitVec.extractLsb'_append_eq_right]

/-! ### Formats XY, XYS, XYN and ZN -/

theorem encodeXY_eq (o : BitVec 4) (x y n : Fin 16) : encodeXY o x y n = encodeX o x (nibble y ++ nibble n) := rfl

@[simp] theorem opField_encodeXY (o : BitVec 4) (x y : Reg) (n : Fin 16) : opField (encodeXY o x y n) = o := by
  rw [encodeXY_eq, opField_encodeX]

@[simp] theorem xField_encodeXY (o : BitVec 4) (x y : Reg) (n : Fin 16) : xField (encodeXY o x y n) = x := by
  rw [encodeXY_eq, xField_encodeX]

@[simp] theorem nnField_encodeXY (o : BitVec 4) (x y : Reg) (n : Fin 16) :
    nnField (encodeXY o x y n) = nibble y ++ nibble n := by
  rw [encodeXY_eq, nnField_encodeX]

@[simp] theorem yField_encodeXY (o : BitVec 4) (x y : Reg) (n : Fin 16) : yField (encodeXY o x y n) = y := by
  have : (encodeXY o x y n).extractLsb' 4 4 = nibble y := by
    unfold encodeXY
    rw [BitVec.extractLsb'_append_eq_of_add_le (by omega), BitVec.extractLsb'_append_eq_of_add_le (by omega),
      BitVec.extractLsb'_append_eq_left]
  unfold yField; rw [this]; rfl

@[simp] theorem nField_encodeXY (o : BitVec 4) (x y : Reg) (n : Fin 16) : nField (encodeXY o x y n) = n := by
  have : (encodeXY o x y n).extractLsb' 0 4 = nibble n := by
    unfold encodeXY
    rw [BitVec.extractLsb'_append_eq_of_add_le (by omega), BitVec.extractLsb'_append_eq_of_add_le (by omega),
      BitVec.extractLsb'_append_eq_right]
  unfold nField; rw [this]; rfl

/-! ### The masks of the opcode table -/

theorem and_F000 (op : Word) : op &&& 0xF000 = opField op ++ (0 : BitVec 12) := by
  apply BitVec.eq_of_getLsbD_eq
  intro i hi
  unfold opField
  rw [BitVec.getLsbD_and, BitVec.getLsbD_append, BitVec.getLsbD_extractLsb']
  interval_cases i <;> simp

theorem and_F0FF (op : Word) : op &&& 0xF0FF = encodeX (opField op) 0 (nnField op) := by
  apply BitVec.eq_of_getLsbD_eq
  intro i hi
  unfold encodeX opField nnField
  rw [BitVec.getLsbD_and, BitVec.getLsbD_append, BitVec.getLsbD_append, BitVec.getLsbD_extractLsb',
    BitVec.getLsbD_extractLsb']
  interval_cases i <;> simp [nibble]

/-- A word is put together from its four nibbles. -/
theorem encodeXY_fields (op : Word) : encodeXY (opField op) (xField op) (yField op) (nField op) = op := by
  apply BitVec.eq_of_getLsbD_eq
  intro i hi
  have h (x : BitVec 4) : nibble x.toFin = x := rfl
  unfold encodeXY opField xField yField nField
  rw [h, h, h]
  rw [BitVec.getLsbD_append, BitVec.getLsbD_append, BitVec.getLsbD_append, BitVec.getLsbD_extractLsb',
    BitVec.getLsbD_extractLsb', BitVec.getLsbD_extractLsb', BitVec.getLsbD_extractLsb']
  interval_cases i <;> simp

/-- A word is its primary opcode before its 12-bit address. -/
theorem encodeA_fields (op : Word) : encodeA (opField op) (nnnField op) = op := by
  apply BitVec.eq_of_getLsbD_eq
  intro i hi
  unfold encodeA opField nnnField
  rw [BitVec.getLsbD_append, BitVec.getLsbD_extractLsb', BitVec.getLsbD_extractLsb']
  interval_cases i <;> simp

/-- The low byte of a word is its last two nibbles. -/
theorem nnField_eq (op : Word) : nnField op = nibble (yField op) ++ nibble (nField op) := by
  conv_lhs => rw [← encodeXY_fields op]
  rw [nnField_encodeXY]

/-- The y nibble is the high half of the low byte, and the n nibble its low half (rule R72: nn = y:n). -/
theorem yField_eq (op : Word) : yField op = ((nnField op).extractLsb' 4 4).toFin := by
  rw [nnField_eq, BitVec.extractLsb'_append_eq_left]; rfl

theorem nField_eq (op : Word) : nField op = ((nnField op).extractLsb' 0 4).toFin := by
  rw [nnField_eq, BitVec.extractLsb'_append_eq_right]; rfl

/-- A word is its primary opcode, its x nibble and its low byte. -/
theorem encodeX_fields (op : Word) : encodeX (opField op) (xField op) (nnField op) = op := by
  rw [nnField_eq, ← encodeXY_eq, encodeXY_fields]

/-- A mask acts on each nibble. -/
theorem encodeXY_and (o o' : BitVec 4) (x x' y y' n n' : Fin 16) :
    encodeXY o x y n &&& encodeXY o' x' y' n' =
      (o &&& o') ++ ((nibble x &&& nibble x') ++ ((nibble y &&& nibble y') ++ (nibble n &&& nibble n'))) :=
  BitVec.and_append.trans (congrArg _ (BitVec.and_append.trans (congrArg _ BitVec.and_append)))

theorem and_F00F (op : Word) : op &&& 0xF00F = encodeXY (opField op) 0 0 (nField op) := by
  have h : (0xF00F : Word) = encodeXY (BitVec.allOnes 4) 0 0 15 := by decide
  have h0 : nibble 0 = 0#4 := rfl
  have h1 : nibble 15 = BitVec.allOnes 4 := rfl
  conv_lhs => rw [← encodeXY_fields op, h, encodeXY_and]
  rw [h0, h1, BitVec.and_allOnes, BitVec.and_allOnes, BitVec.and_zero, BitVec.and_zero]
  rfl

theorem and_F0F0 (op : Word) : op &&& 0xF0F0 = encodeXY (opField op) 0 (yField op) 0 := by
  have h : (0xF0F0 : Word) = encodeXY (BitVec.allOnes 4) 0 15 0 := by decide
  have h0 : nibble 0 = 0#4 := rfl
  have h1 : nibble 15 = BitVec.allOnes 4 := rfl
  conv_lhs => rw [← encodeXY_fields op, h, encodeXY_and]
  rw [h0, h1, BitVec.and_allOnes, BitVec.and_allOnes, BitVec.and_zero, BitVec.and_zero]
  rfl

/-! ### Bytes and words (rule R52) -/

@[simp] theorem highByte_wordOfBytes (hi lo : Byte) : highByte (wordOfBytes hi lo) = hi :=
  BitVec.extractLsb'_append_eq_left

@[simp] theorem lowByte_wordOfBytes (hi lo : Byte) : lowByte (wordOfBytes hi lo) = lo :=
  BitVec.extractLsb'_append_eq_right

/-- A word is its high byte before its low byte. -/
theorem wordOfBytes_bytes (op : Word) : wordOfBytes (highByte op) (lowByte op) = op := by
  apply BitVec.eq_of_toNat_eq
  unfold wordOfBytes highByte lowByte
  simp only [BitVec.toNat_append, BitVec.extractLsb'_toNat]
  rw [← Nat.shiftLeft_add_eq_or_of_lt (Nat.mod_lt _ (by decide))]
  have := op.isLt
  simp only [Nat.shiftRight_eq_div_pow, Nat.shiftLeft_eq]
  omega

end Sys2Proof
end

