-- ==== Sys2Proof/Laws/Memory.lean ====
section
/-! SUPPORT. The laws of memory: a read after a write, the canonical form kept by every write, and equal reads of two
canonical memories making them equal. -/

namespace Sys2Proof.Machine

@[simp] theorem Memory.read_nil (d : Nat → Byte) (a : Nat) : Memory.read d [] a = d a := rfl

theorem Memory.read_cons (d : Nat → Byte) (k : Nat) (v : Byte) (m : Memory) (a : Nat) :
    Memory.read d ((k, v) :: m) a = if k = a then v else Memory.read d m a := rfl

/-- Below the first address of a canonical memory nothing is listed. -/
theorem Memory.read_below {d : Nat → Byte} {lo : Nat} {m : Memory} (h : Memory.wfFrom d lo m = true) {a : Nat}
    (ha : a < lo) : Memory.read d m a = d a := by
  induction m generalizing lo with
  | nil => rfl
  | cons c m ih =>
    obtain ⟨k, v⟩ := c
    simp only [Memory.wfFrom, Bool.and_eq_true, decide_eq_true_eq] at h
    rw [Memory.read_cons, if_neg (by omega)]
    exact ih h.2 (by omega)

theorem Memory.wfFrom_mono {d : Nat → Byte} {lo lo' : Nat} {m : Memory} (h : Memory.wfFrom d lo m = true)
    (hl : lo' ≤ lo) : Memory.wfFrom d lo' m = true := by
  cases m with
  | nil => rfl
  | cons c m =>
    simp only [Memory.wfFrom, Bool.and_eq_true, decide_eq_true_eq] at h ⊢
    exact ⟨⟨⟨by omega, h.1.1.2⟩, h.1.2⟩, h.2⟩

/-- A read after a write, in a canonical memory. -/
theorem Memory.read_write {d : Nat → Byte} {lo : Nat} {m : Memory} (h : Memory.wfFrom d lo m = true) (a : Nat) (b : Byte)
    (c : Nat) : Memory.read d (Memory.write d m a b) c = if c = a then b else Memory.read d m c := by
  induction m generalizing lo with
  | nil =>
    simp only [Memory.write]
    split <;> simp only [Memory.read_cons, Memory.read_nil] <;> grind
  | cons e m ih =>
    obtain ⟨k, v⟩ := e
    simp only [Memory.wfFrom, Bool.and_eq_true, decide_eq_true_eq] at h
    obtain ⟨⟨⟨-, -⟩, -⟩, h⟩ := h
    have hd : ∀ x, x < k + 1 → Memory.read d m x = d x := fun x hx => Memory.read_below h hx
    simp only [Memory.write]
    split
    · split <;> simp only [Memory.read_cons] <;> grind
    · split
      · split <;> simp only [Memory.read_cons] <;> grind
      · simp only [Memory.read_cons, ih h]
        grind

/-- A write inside 0x000-0xFFF keeps the canonical form. -/
theorem Memory.wfFrom_write {d : Nat → Byte} {lo : Nat} {m : Memory} (h : Memory.wfFrom d lo m = true) {a : Nat}
    (hlo : lo ≤ a) (ha : a ≤ 0xFFF) (b : Byte) : Memory.wfFrom d lo (Memory.write d m a b) = true := by
  induction m generalizing lo with
  | nil =>
    simp only [Memory.write]
    split <;> simp_all [Memory.wfFrom]
  | cons e m ih =>
    obtain ⟨k, v⟩ := e
    simp only [Memory.wfFrom, Bool.and_eq_true, decide_eq_true_eq] at h
    obtain ⟨⟨⟨h1, h2⟩, h3⟩, h4⟩ := h
    simp only [Memory.write]
    split
    · split
      · simp [Memory.wfFrom, h1, h2, h3, h4]
      · simp only [Memory.wfFrom, Bool.and_eq_true, decide_eq_true_eq]
        exact ⟨⟨⟨hlo, ha⟩, ‹_›⟩, ⟨⟨by omega, h2⟩, h3⟩, h4⟩
    · split
      · split
        · exact Memory.wfFrom_mono h4 (by omega)
        · subst a
          simp only [Memory.wfFrom, Bool.and_eq_true, decide_eq_true_eq]
          exact ⟨⟨⟨hlo, ha⟩, ‹_›⟩, h4⟩
      · simp only [Memory.wfFrom, Bool.and_eq_true, decide_eq_true_eq]
        exact ⟨⟨⟨h1, h2⟩, h3⟩, ih h4 (by omega)⟩

/-- Two canonical memories that read alike are equal. -/
theorem Memory.ext_of_wf {d : Nat → Byte} {lo : Nat} {m m' : Memory} (h : Memory.wfFrom d lo m = true)
    (h' : Memory.wfFrom d lo m' = true) (heq : ∀ a, Memory.read d m a = Memory.read d m' a) : m = m' := by
  induction m generalizing lo m' with
  | nil =>
    cases m' with
    | nil => rfl
    | cons e m' =>
      obtain ⟨k, v⟩ := e
      simp only [Memory.wfFrom, Bool.and_eq_true, decide_eq_true_eq] at h'
      have := heq k
      simp only [Memory.read_cons, Memory.read_nil, if_true] at this
      exact absurd this.symm h'.1.2
  | cons e m ih =>
    obtain ⟨k, v⟩ := e
    simp only [Memory.wfFrom, Bool.and_eq_true, decide_eq_true_eq] at h
    obtain ⟨⟨⟨-, -⟩, h3⟩, h4⟩ := h
    cases m' with
    | nil =>
      have := heq k
      simp only [Memory.read_cons, Memory.read_nil, if_true] at this
      exact absurd this h3
    | cons e' m' =>
      obtain ⟨k', v'⟩ := e'
      simp only [Memory.wfFrom, Bool.and_eq_true, decide_eq_true_eq] at h'
      obtain ⟨⟨⟨-, -⟩, h3'⟩, h4'⟩ := h'
      have hk : k = k' := by
        rcases Nat.lt_trichotomy k k' with hlt | heq' | hlt
        · have := heq k
          rw [Memory.read_cons, if_pos rfl, Memory.read_cons, if_neg (by omega), Memory.read_below h4' (by omega)] at this
          exact absurd this h3
        · exact heq'
        · have := heq k'
          rw [Memory.read_cons, if_neg (by omega), Memory.read_cons, if_pos rfl, Memory.read_below h4 (by omega)] at this
          exact absurd this.symm h3'
      subst hk
      have hv : v = v' := by simpa [Memory.read_cons] using heq k
      subst hv
      refine congrArg _ (ih h4 h4' fun a => ?_)
      have := heq a
      simp only [Memory.read_cons] at this
      split at this
      · subst a; rw [Memory.read_below h4 (by omega), Memory.read_below h4' (by omega)]
      · exact this

/-! ### The state's accesses -/

/-- The memory of a state is in its canonical form. -/
abbrev State.MemWf (s : State) : Prop := Memory.wf (initialByte s.params) s.mem = true

/-- A write keeps the canonical form. -/
theorem State.writeByte_wf {s : State} (h : s.MemWf) (a : Nat) (b : Byte) : (s.writeByte a b).MemWf := by
  unfold State.MemWf State.writeByte
  split
  · exact Memory.wfFrom_write h (Nat.zero_le _) ‹_› b
  · exact h

theorem State.writeBytes_wf {s : State} (h : s.MemWf) (a : Nat) (bs : List Byte) : (s.writeBytes a bs).MemWf := by
  induction bs generalizing s a with
  | nil => exact h
  | cons b bs ih => exact ih (State.writeByte_wf h a b) _

/-- The one byte that a write changes. -/
theorem State.readByte_writeByte {s : State} (h : s.MemWf) {a : Nat} (ha : a ≤ 0xFFF) (b : Byte) (c : Nat) :
    (s.writeByte a b).readByte c = if c = a then b else s.readByte c := by
  unfold State.readByte
  rw [State.writeByte_params]
  unfold State.writeByte
  rw [if_pos ha]
  exact Memory.read_write h a b c

/-- The bytes that consecutive writes change, and no other (rules R51, R53). -/
theorem State.readByte_writeBytes {s : State} (h : s.MemWf) {a : Nat} {bs : List Byte} (ha : a + bs.length ≤ 0x1000)
    (c : Nat) : (s.writeBytes a bs).readByte c =
      if hc : a ≤ c ∧ c < a + bs.length then bs[c - a]'(by omega) else s.readByte c := by
  induction bs generalizing s a with
  | nil => simp [State.writeBytes]
  | cons b bs ih =>
    simp only [List.length_cons] at ha
    rw [State.writeBytes, ih (State.writeByte_wf h a b) (by omega), State.readByte_writeByte h (by omega)]
    by_cases h1 : c = a
    · subst h1; simp
    · by_cases h2 : a + 1 ≤ c ∧ c < a + 1 + bs.length
      · have h3 : a ≤ c ∧ c < a + (b :: bs).length := by simp; omega
        have h4 : c - a = (c - (a + 1)) + 1 := by omega
        rw [dif_pos h2, dif_pos h3]
        simp [h4]
      · have h3 : ¬ (a ≤ c ∧ c < a + (b :: bs).length) := by simp; omega
        rw [dif_neg h2, dif_neg h3, if_neg h1]

/-- A read depends on the memory and the fonts alone. -/
theorem State.readByte_congr {s t : State} (hm : t.mem = s.mem) (hp : t.params = s.params) (a : Nat) :
    t.readByte a = s.readByte a := by
  unfold State.readByte; rw [hm, hp]

/-- Writes outside an address leave it alone, whatever the memory's form. -/
theorem Memory.read_write_other (d : Nat → Byte) (m : Memory) {a c : Nat} (b : Byte) (hne : c ≠ a) :
    Memory.read d (Memory.write d m a b) c = Memory.read d m c := by
  induction m with
  | nil => grind [Memory.write, Memory.read_cons, Memory.read_nil]
  | cons e m ih =>
    obtain ⟨k, v⟩ := e
    simp only [Memory.write]
    split
    · split <;> grind [Memory.read_cons]
    · split
      · split <;> grind [Memory.read_cons]
      · simp only [Memory.read_cons, ih]

theorem State.readByte_writeBytes_outside (s : State) (a : Nat) (bs : List Byte) {c : Nat}
    (hc : ¬ (a ≤ c ∧ c < a + bs.length)) : (s.writeBytes a bs).readByte c = s.readByte c := by
  induction bs generalizing s a with
  | nil => rfl
  | cons b bs ih =>
    simp only [List.length_cons] at hc
    rw [State.writeBytes, ih _ _ (by omega)]
    unfold State.readByte
    rw [State.writeByte_params]
    unfold State.writeByte
    split
    · exact Memory.read_write_other _ _ _ (by omega)
    · rfl

/-- Memory is the only field that stores change. -/
theorem State.writeBytes_eq (s : State) (a : Nat) (bs : List Byte) :
    s.writeBytes a bs = { s with mem := (s.writeBytes a bs).mem } := by
  induction bs generalizing s a with
  | nil => rfl
  | cons b bs ih => rw [State.writeBytes, ih]; unfold State.writeByte; split <;> rfl

/-- The memory at reset is in its canonical form. -/
theorem reset_memWf : State.reset.MemWf := rfl

end Sys2Proof.Machine
end

