-- ==== Sys2Proof/Laws/Step.lean ====
section
/-! SUPPORT. What the shared operations of a step can do, said once: ending an instruction, the fault guard, the range
check, fetch, one step call, one host call; and the induction over host calls. -/

namespace Sys2Proof.Machine

/-! ### Ending an instruction and the fault guard -/

theorem State.finish_eq (s : State) (d : Disposition) : s.finish d = .next { s with pc := nextPc s.pc d } := rfl

theorem State.skipIf_eq (s : State) (c : Bool) :
    s.skipIf c = .next { s with pc := if c then s.pc + 4 else s.pc + 2 } := by
  unfold State.skipIf State.finish; cases c <;> rfl

theorem guarded_none (s : State) (effect : State → Result) : guarded none s effect = effect s := rfl

theorem guarded_some (r : Fault) (s : State) (effect : State → Result) : guarded (some r) s effect = .next (s.takeFault r) := rfl

/-- A guarded effect either takes the fault of its guard, or is the effect. -/
theorem guarded_cases {f : Option Fault} {s t : State} {effect : State → Result} (h : guarded f s effect = .next t) :
    (∃ r, f = some r ∧ t = s.takeFault r) ∨ (f = none ∧ effect s = .next t) := by
  cases f with
  | none => exact .inr ⟨rfl, h⟩
  | some r => exact .inl ⟨r, rfl, by cases h; rfl⟩

theorem guarded_next (f : Option Fault) {s : State} {effect : State → Result} (h : ∃ t, effect s = .next t) :
    ∃ t, guarded f s effect = .next t := by
  cases f with
  | none => exact h
  | some r => exact ⟨_, rfl⟩

/-! ### The fault conditions -/

/-- The codes of rule R271's table are 1 to 9. -/
theorem Fault.code_range (r : Fault) : 1 ≤ r.code ∧ r.code ≤ 9 := by
  cases r <;> simp [Fault.code]

theorem rangeFault_eq_none {i : Word} {m : Nat} : rangeFault i m = none ↔ i.toNat + m ≤ 0x1000 := by
  unfold rangeFault lastAddress
  split <;> simp <;> omega

theorem rangeFault_of_gt {i : Word} {m : Nat} (h : 0x1000 < i.toNat + m) :
    rangeFault i m = some (.memoryOutOfRange (max i.toNat 0x1000)) := by
  unfold rangeFault lastAddress
  rw [if_pos (by omega)]

theorem keyIndexFault_eq_none {k : Byte} : keyIndexFault k = none ↔ k.toNat < 16 := by
  unfold keyIndexFault
  split <;> simp <;> omega

theorem auxIndexFault_eq_none {x : Reg} : auxIndexFault x = none ↔ x.val < 8 := by
  unfold auxIndexFault
  split <;> simp <;> omega

/-- A fetch succeeds only at an address that leaves room for two bytes (rule R55). -/
theorem State.fetch_pc_le {s : State} (h : s.fetchFault = none) : s.pc.toNat ≤ 0xFFE := by
  unfold State.fetchFault lastAddress at h
  split at h
  · simp at h
  · split at h
    · simp at h
    · split at h
      · simp at h
      · split at h
        · simp at h
        · omega

/-! ### Every instruction and every call completes -/

/-- Each meaning answers a next state: a fault of the spec is a next state with the latch set (log 6). -/
theorem exec_next (i : Instr) (s : State) : ∃ t, exec i s = .next t := by
  cases i with
  | call a => simp only [exec, execCall]; split <;> exact ⟨_, rfl⟩
  | ret => simp only [exec, execRet]; split <;> exact ⟨_, rfl⟩
  | addImm x nn => simp only [exec, execAddImm]; split <;> exact ⟨_, rfl⟩
  | addI x => simp only [exec, execAddI]; split <;> exact ⟨_, rfl⟩
  | drw x y n =>
    simp only [exec, execDrw]
    split
    · exact ⟨_, rfl⟩
    · exact guarded_next _ ⟨_, rfl⟩
  | skp x => simp only [exec, execSkp]; exact guarded_next _ ⟨_, rfl⟩
  | sknp x => simp only [exec, execSknp]; exact guarded_next _ ⟨_, rfl⟩
  | ldB x => simp only [exec, execLdB]; exact guarded_next _ ⟨_, rfl⟩
  | store x => simp only [exec, execStore]; exact guarded_next _ ⟨_, rfl⟩
  | load x => simp only [exec, execLoad]; exact guarded_next _ ⟨_, rfl⟩
  | storeR x => simp only [exec, execStoreR]; exact guarded_next _ ⟨_, rfl⟩
  | loadR x => simp only [exec, execLoadR]; exact guarded_next _ ⟨_, rfl⟩
  | _ => exact ⟨_, rfl⟩

/-! ### One step call -/

/-- What a step call can do: stay faulted, resolve or continue a key wait, fault at the fetch, report an unknown opcode, or
execute the instruction that was fetched (rule R100). -/
theorem stepCall_cases {k : BitVec 16} {b : Byte} {s t : State} (h : stepCall k b s = .next t) :
    (∃ r, s.fault = some r ∧ t = { s with report := .faulted r }) ∨
    (∃ x, s.fault = none ∧ s.ctl = .awaitingKey x ∧ t = (s.beginStep k b).resolveKey x) ∨
    (∃ r, s.Ready ∧ (s.beginStep k b).fetchFault = some r ∧ t = (s.beginStep k b).takeFault r) ∨
    (∃ op, s.Ready ∧ (s.beginStep k b).fetchFault = none ∧ decode s.params s.fetchWord = .unknown op ∧
      execUnknown op (s.beginStep k b) = .next t) ∨
    (∃ i, s.Ready ∧ (s.beginStep k b).fetchFault = none ∧ decode s.params s.fetchWord = .instr i ∧
      exec i (s.beginStep k b) = .next t) := by
  unfold stepCall at h
  split at h
  · rename_i r hr
    exact .inl ⟨r, hr, by cases h; rfl⟩
  · rename_i hf
    simp only at h
    split at h
    · rename_i x hx
      exact .inr (.inl ⟨x, hf, hx, by cases h; rfl⟩)
    · rename_i hc
      rcases guarded_cases h with ⟨r, hr, ht⟩ | ⟨hn, he⟩
      · exact .inr (.inr (.inl ⟨r, ⟨hf, hc⟩, hr, ht⟩))
      · unfold execWord at he
        split at he
        · rename_i i hi
          exact .inr (.inr (.inr (.inr ⟨i, ⟨hf, hc⟩, hn, hi, he⟩)))
        · rename_i op hop
          exact .inr (.inr (.inr (.inl ⟨op, ⟨hf, hc⟩, hn, hop, he⟩)))

/-- A step call answers a next state. -/
theorem stepCall_next (k : BitVec 16) (b : Byte) (s : State) : ∃ t, stepCall k b s = .next t := by
  unfold stepCall
  split
  · exact ⟨_, rfl⟩
  · simp only
    split
    · exact ⟨_, rfl⟩
    · cases hf : (s.beginStep k b).fetchFault with
      | some r => exact ⟨_, rfl⟩
      | none =>
        rw [guarded_none]
        unfold execWord
        split
        · exact exec_next _ _
        · exact ⟨_, rfl⟩

/-- A host call answers a next state, so a run never stops. -/
theorem hostCall_next (c : HostCall) (s : State) : ∃ t, hostCall c s = .next t := by
  cases c with
  | step k b => exact stepCall_next k b s
  | tick => exact ⟨_, rfl⟩
  | clearDirty => exact ⟨_, rfl⟩
  | reset image => exact ⟨_, rfl⟩

theorem step_next (s : State) : ∃ t, step s = .next t := hostCall_next _ _

/-- One step of the model is one call of the host, made in the state with that call taken from the schedule. -/
theorem step_eq_hostCall (s : State) : step s = hostCall s.nextCall.1 s.nextCall.2 := rfl

/-- What every host call keeps, every finite word of host calls keeps. -/
theorem runCalls_induction {P : State → Prop} (hstep : ∀ c s t, P s → hostCall c s = .next t → P t) :
    ∀ cs s t, P s → runCalls cs s = .next t → P t := by
  intro cs
  induction cs with
  | nil => intro s t hs h; cases h; exact hs
  | cons c cs ih =>
    intro s t hs h
    unfold runCalls at h
    obtain ⟨u, hu⟩ := hostCall_next c s
    rw [hu] at h
    exact ih u t (hstep c s u hs hu) h

/-! ### The schedule of host calls, construction and reset -/

theorem State.nextCall_cons {s : State} {c : HostCall} {rest : List HostCall} (h : s.pending = c :: rest) :
    s.nextCall = (c, { s with pending := rest }) := by
  unfold State.nextCall; split
  · rename_i c' rest' h'
    rw [h] at h'; cases h'; rfl
  · rename_i h'
    rw [h] at h'; cases h'

theorem State.nextCall_nil {s : State} (h : s.pending = []) :
    s.nextCall = (.step (Config.freeKeys s.draws) (Config.freeRnd s.draws), { s with draws := s.draws + 1 }) := by
  unfold State.nextCall; split
  · rename_i h'
    rw [h] at h'; cases h'
  · rfl

/-- An image that fits is loaded at 0x200 (rules R8, R275). -/
theorem construct_of_le (p : Params) {image : List Byte} (h : image.length ≤ 3584) :
    construct p image = .ok (({ State.reset with params := p }).writeBytes 0x200 image) :=
  if_neg (show ¬ image.length > 3584 by omega)

theorem construct_of_gt (p : Params) {image : List Byte} (h : 3584 < image.length) :
    construct p image = .error image.length := if_pos (show image.length > 3584 from h)

theorem State.hostReset_of_le (s : State) {image : List Byte} (h : image.length ≤ 3584) :
    s.hostReset image = { ({ State.reset with params := s.params }).writeBytes 0x200 image with
      aux := s.aux, pending := s.pending, draws := s.draws } := by
  unfold State.hostReset State.resetWith; rw [construct_of_le _ h]

theorem State.hostReset_of_gt (s : State) {image : List Byte} (h : 3584 < image.length) :
    s.hostReset image = { s with report := .imageTooLarge image.length } := by
  unfold State.hostReset State.resetWith; rw [construct_of_gt _ h]

/-! ### Fetching what was stored (rules R52, R64) -/

theorem State.fetchWord_congr {s t : State} (hm : t.mem = s.mem) (hp : t.params = s.params) (hc : t.pc = s.pc) :
    t.fetchWord = s.fetchWord := by
  unfold State.fetchWord
  rw [hc, State.readByte_congr hm hp, State.readByte_congr hm hp]

/-- The word stored at an address is the word of the two bytes read there. -/
theorem State.readWord_storeWord {s : State} (h : s.MemWf) {a : Nat} (ha : a ≤ 0xFFE) (op : Word) :
    wordOfBytes ((s.storeWord a op).readByte a) ((s.storeWord a op).readByte (a + 1)) = op := by
  unfold State.storeWord
  rw [State.readByte_writeBytes h (by simp; omega), State.readByte_writeBytes h (by simp; omega)]
  simp [wordOfBytes_bytes]

theorem State.readyToFetch_fetchFault (s : State) : s.readyToFetch.fetchFault = none := by
  by_cases h : s.fetchFault = none
  · have : s.readyToFetch.pc = s.pc := if_pos h
    unfold State.fetchFault at h ⊢
    rw [this]
    exact h
  · have : s.readyToFetch.pc = 0x200 := if_neg h
    unfold State.fetchFault
    rw [this]
    simp [programStart, lastAddress]

/-- `withFetchWord` makes the machine ready to fetch, and what it fetches is the word given (log 14). -/
theorem State.withFetchWord_fetches {s : State} (h : s.MemWf) (nbits w : Nat) :
    (s.withFetchWord nbits w).Ready ∧ (s.withFetchWord nbits w).fetchFault = none ∧
      (s.withFetchWord nbits w).fetchWord = BitVec.ofNat 16 (w % 2 ^ nbits) := by
  have hm : s.readyToFetch.MemWf := h
  have hf := State.readyToFetch_fetchFault s
  have hp := State.fetch_pc_le hf
  have e1 : (s.withFetchWord nbits w).pc = s.readyToFetch.pc := State.writeBytes_pc _ _ _
  have e2 : (s.withFetchWord nbits w).params = s.readyToFetch.params := State.writeBytes_params _ _ _
  refine ⟨⟨State.writeBytes_fault _ _ _, State.writeBytes_ctl _ _ _⟩, ?_, ?_⟩
  · unfold State.fetchFault at hf ⊢
    rw [e1, e2]
    exact hf
  · unfold State.fetchWord
    rw [e1]
    exact State.readWord_storeWord hm hp _

end Sys2Proof.Machine
end

