-- ==== Sys2Proof/Laws/Frames.lean ====
section
/-! SUPPORT. The frames of Safety.lean, met by the shared operations that end an instruction: a register write, a
framebuffer write, a draw of the framebuffer, consecutive stores. They are stated over a variable value, so that no proof
unfolds the value written. -/

namespace Sys2Proof.Machine

theorem RegisterFrame.of_setV (s : State) (x : Reg) (b : Byte) (pc : Word) :
    RegisterFrame (· = x) s { s.setV x b with pc := pc } :=
  ⟨fun r h => (State.v_setV s x b r).trans (if_neg h), fun _ => rfl, rfl⟩

/-- A write of V that keeps every register outside `w`. -/
theorem RegisterFrame.of_V {w : Reg → Prop} {s : State} {V : Vector Byte 16} (pc : Word)
    (h : ∀ r, ¬ w r → State.v { s with V := V } r = s.v r) : RegisterFrame w s { s with V := V, pc := pc } :=
  ⟨h, fun _ => rfl, rfl⟩

/-- A block load writes V0..Vx alone, whatever the bytes loaded (rules R239, R241). -/
theorem RegisterFrame.of_loadUpTo (s : State) (x : Reg) (f : Nat → Byte) (pc : Word) :
    RegisterFrame (fun r => r.val ≤ x.val) s { s.loadUpTo x f with pc := pc } := by
  have h := State.v_loadUpTo s x f
  rw [State.loadUpTo_eq] at h ⊢
  generalize (s.loadUpTo x f).V = V at h ⊢
  exact RegisterFrame.of_V pc fun r hr => (h r).trans (if_neg hr)

theorem RegisterFrame.of_pc (w : Reg → Prop) (s : State) (pc : Word) : RegisterFrame w s { s with pc := pc } :=
  ⟨fun _ _ => rfl, fun _ => rfl, rfl⟩

theorem DisplayFrame.of_setFb (s : State) (fb : Framebuffer) (pc : Word) :
    DisplayFrame s { s.setFb fb with pc := pc } :=
  ⟨fun _ => rfl, fun _ => rfl, rfl⟩

theorem FreeDisplayFrame.of_setFb (s : State) (fb : Framebuffer) (ext : Bool) (pc : Word) :
    FreeDisplayFrame s { ({ s with ext := ext }).setFb fb with pc := pc } :=
  ⟨fun _ => rfl, fun _ => rfl, rfl⟩

theorem FreeDisplayFrame.of_pc (s : State) (pc : Word) : FreeDisplayFrame s { s with pc := pc } :=
  ⟨fun _ => rfl, fun _ => rfl, rfl⟩

theorem FreeDisplayFrame.of_fields (s : State) (fb : Framebuffer) (dirty ext : Bool) (draws : Nat) (pc : Word) :
    FreeDisplayFrame s { s with fb := fb, dirty := dirty, ext := ext, draws := draws, pc := pc } :=
  ⟨fun _ => rfl, fun _ => rfl, rfl⟩

/-- A draw of the whole framebuffer changes it to some framebuffer and advances the draw counter. -/
theorem FreeDisplayFrame.of_drawFb (s : State) (ext : Bool) (pc : Word) :
    FreeDisplayFrame s { ({ s with ext := ext }).drawFb with pc := pc } :=
  FreeDisplayFrame.of_fields s _ _ _ _ _

theorem DrawFrame.of_setFb_setV (s : State) (fb : Framebuffer) (b : Byte) (pc : Word) :
    DrawFrame s { (s.setFb fb).setV 15 b with pc := pc } :=
  ⟨fun r h => (State.v_setV (s.setFb fb) 15 b r).trans (if_neg h), fun _ => rfl, rfl⟩

theorem StoreFrame.of_writeBytes (s : State) (a : Nat) (bs : List Byte) (i pc : Word) :
    StoreFrame a bs.length s { s.writeBytes a bs with I := i, pc := pc } := by
  refine ⟨fun r => State.v_congr (State.writeBytes_V s a bs) r, fun b h => State.readByte_writeBytes_outside s a bs h, ?_⟩
  rw [State.writeBytes_eq]

/-! ### What the other shared operations change -/

/-- A scroll changes the framebuffer, the dirty flag and the draw counter alone (rules R175 to R178). -/
theorem State.scroll_eq (s : State) (f : Nat → Nat → Framebuffer → Framebuffer) :
    s.scroll f = { s with fb := (s.scroll f).fb, dirty := (s.scroll f).dirty, draws := (s.scroll f).draws } := by
  unfold State.scroll; split
  · rfl
  · split
    · unfold State.drawFb; rfl
    · rfl
    · rfl

/-- A scroll in base mode under BASE_MODE_SCROLL = noop changes nothing (rule R178). -/
theorem State.scroll_noop {s : State} (hext : s.ext = false) (hmode : s.params.baseModeScroll = .noop)
    (f : Nat → Nat → Framebuffer → Framebuffer) : s.scroll f = s := by
  unfold State.scroll; simp only [hext, hmode, Bool.false_eq_true, if_false]

/-- A mode switch's framebuffer effect sets the dirty flag, and changes the framebuffer and the draw counter alone beside it
(rule R181). -/
theorem State.modeSwitch_eq (s : State) :
    s.modeSwitch = { s with fb := s.modeSwitch.fb, dirty := true, draws := s.modeSwitch.draws } := by
  unfold State.modeSwitch; split
  · unfold State.drawFb; rfl
  · rfl
  · rfl

/-- The resolving step of a key wait changes V, pc and the control state alone (rule R214). -/
theorem State.resolveKey_eq (s : State) (x : Reg) :
    s.resolveKey x = { s with V := (s.resolveKey x).V, pc := (s.resolveKey x).pc, ctl := (s.resolveKey x).ctl } := by
  unfold State.resolveKey; split <;> rfl

end Sys2Proof.Machine
end

