-- ==== Sys2Proof/Laws/PerInstr.lean ====
section
/-! SUPPORT. Facts of each instruction as syntax, one lemma per constructor. -/

namespace Sys2Proof.Laws.EncodeMatchesTable

/-- The encoded word of an instruction agrees with the `match` and `mask` of its row of spec/opcode_table.json. -/
def Statement (i : Instr) : Prop := encode i &&& opcodeMask i = opcodeMatch i

theorem cls : Statement .cls := rfl

theorem ret : Statement .ret := rfl

theorem scd (n : Fin 16) : Statement (.scd n) := by
  simp only [Statement, encode, opcodeMask, opcodeMatch, and_F0F0, opField_encodeXY, yField_encodeXY]
  decide

theorem scr : Statement .scr := rfl

theorem scl : Statement .scl := rfl

theorem exit : Statement .exit := rfl

theorem low : Statement .low := rfl

theorem high : Statement .high := rfl

theorem jp (a : BitVec 12) : Statement (.jp a) := by
  simp only [Statement, encode, opcodeMask, opcodeMatch, and_F000, opField_encodeA]
  decide

theorem call (a : BitVec 12) : Statement (.call a) := by
  simp only [Statement, encode, opcodeMask, opcodeMatch, and_F000, opField_encodeA]
  decide

theorem seImm (x : Reg) (nn : Byte) : Statement (.seImm x nn) := by
  simp only [Statement, encode, opcodeMask, opcodeMatch, and_F000, opField_encodeX]
  decide

theorem sneImm (x : Reg) (nn : Byte) : Statement (.sneImm x nn) := by
  simp only [Statement, encode, opcodeMask, opcodeMatch, and_F000, opField_encodeX]
  decide

theorem seReg (x : Reg) (y : Reg) : Statement (.seReg x y) := by
  simp only [Statement, encode, opcodeMask, opcodeMatch, and_F000, opField_encodeXY]
  decide

theorem ldImm (x : Reg) (nn : Byte) : Statement (.ldImm x nn) := by
  simp only [Statement, encode, opcodeMask, opcodeMatch, and_F000, opField_encodeX]
  decide

theorem addImm (x : Reg) (nn : Byte) : Statement (.addImm x nn) := by
  simp only [Statement, encode, opcodeMask, opcodeMatch, and_F000, opField_encodeX]
  decide

theorem mov (x : Reg) (y : Reg) : Statement (.mov x y) := by
  simp only [Statement, encode, opcodeMask, opcodeMatch, and_F00F, opField_encodeXY, nField_encodeXY]
  decide

theorem or (x : Reg) (y : Reg) : Statement (.or x y) := by
  simp only [Statement, encode, opcodeMask, opcodeMatch, and_F00F, opField_encodeXY, nField_encodeXY]
  decide

theorem and (x : Reg) (y : Reg) : Statement (.and x y) := by
  simp only [Statement, encode, opcodeMask, opcodeMatch, and_F00F, opField_encodeXY, nField_encodeXY]
  decide

theorem xor (x : Reg) (y : Reg) : Statement (.xor x y) := by
  simp only [Statement, encode, opcodeMask, opcodeMatch, and_F00F, opField_encodeXY, nField_encodeXY]
  decide

theorem add (x : Reg) (y : Reg) : Statement (.add x y) := by
  simp only [Statement, encode, opcodeMask, opcodeMatch, and_F00F, opField_encodeXY, nField_encodeXY]
  decide

theorem sub (x : Reg) (y : Reg) : Statement (.sub x y) := by
  simp only [Statement, encode, opcodeMask, opcodeMatch, and_F00F, opField_encodeXY, nField_encodeXY]
  decide

theorem shr (x : Reg) : Statement (.shr x) := by
  simp only [Statement, encode, opcodeMask, opcodeMatch, and_F00F, opField_encodeXY, nField_encodeXY]
  decide

theorem subn (x : Reg) (y : Reg) : Statement (.subn x y) := by
  simp only [Statement, encode, opcodeMask, opcodeMatch, and_F00F, opField_encodeXY, nField_encodeXY]
  decide

theorem shl (x : Reg) : Statement (.shl x) := by
  simp only [Statement, encode, opcodeMask, opcodeMatch, and_F00F, opField_encodeXY, nField_encodeXY]
  decide

theorem sneReg (x : Reg) (y : Reg) : Statement (.sneReg x y) := by
  simp only [Statement, encode, opcodeMask, opcodeMatch, and_F000, opField_encodeXY]
  decide

theorem ldI (a : BitVec 12) : Statement (.ldI a) := by
  simp only [Statement, encode, opcodeMask, opcodeMatch, and_F000, opField_encodeA]
  decide

theorem jpV0 (a : BitVec 12) : Statement (.jpV0 a) := by
  simp only [Statement, encode, opcodeMask, opcodeMatch, and_F000, opField_encodeA]
  decide

theorem rnd (x : Reg) (nn : Byte) : Statement (.rnd x nn) := by
  simp only [Statement, encode, opcodeMask, opcodeMatch, and_F000, opField_encodeX]
  decide

theorem drw (x : Reg) (y : Reg) (n : Fin 16) : Statement (.drw x y n) := by
  simp only [Statement, encode, opcodeMask, opcodeMatch, and_F000, opField_encodeXY]
  decide

theorem skp (x : Reg) : Statement (.skp x) := by
  simp only [Statement, encode, opcodeMask, opcodeMatch, and_F0FF, opField_encodeX, nnField_encodeX]
  decide

theorem sknp (x : Reg) : Statement (.sknp x) := by
  simp only [Statement, encode, opcodeMask, opcodeMatch, and_F0FF, opField_encodeX, nnField_encodeX]
  decide

theorem ldVxDt (x : Reg) : Statement (.ldVxDt x) := by
  simp only [Statement, encode, opcodeMask, opcodeMatch, and_F0FF, opField_encodeX, nnField_encodeX]
  decide

theorem ldVxK (x : Reg) : Statement (.ldVxK x) := by
  simp only [Statement, encode, opcodeMask, opcodeMatch, and_F0FF, opField_encodeX, nnField_encodeX]
  decide

theorem ldDtVx (x : Reg) : Statement (.ldDtVx x) := by
  simp only [Statement, encode, opcodeMask, opcodeMatch, and_F0FF, opField_encodeX, nnField_encodeX]
  decide

theorem ldStVx (x : Reg) : Statement (.ldStVx x) := by
  simp only [Statement, encode, opcodeMask, opcodeMatch, and_F0FF, opField_encodeX, nnField_encodeX]
  decide

theorem addI (x : Reg) : Statement (.addI x) := by
  simp only [Statement, encode, opcodeMask, opcodeMatch, and_F0FF, opField_encodeX, nnField_encodeX]
  decide

theorem ldF (x : Reg) : Statement (.ldF x) := by
  simp only [Statement, encode, opcodeMask, opcodeMatch, and_F0FF, opField_encodeX, nnField_encodeX]
  decide

theorem ldHF (x : Reg) : Statement (.ldHF x) := by
  simp only [Statement, encode, opcodeMask, opcodeMatch, and_F0FF, opField_encodeX, nnField_encodeX]
  decide

theorem ldB (x : Reg) : Statement (.ldB x) := by
  simp only [Statement, encode, opcodeMask, opcodeMatch, and_F0FF, opField_encodeX, nnField_encodeX]
  decide

theorem store (x : Reg) : Statement (.store x) := by
  simp only [Statement, encode, opcodeMask, opcodeMatch, and_F0FF, opField_encodeX, nnField_encodeX]
  decide

theorem load (x : Reg) : Statement (.load x) := by
  simp only [Statement, encode, opcodeMask, opcodeMatch, and_F0FF, opField_encodeX, nnField_encodeX]
  decide

theorem storeR (x : Reg) : Statement (.storeR x) := by
  simp only [Statement, encode, opcodeMask, opcodeMatch, and_F0FF, opField_encodeX, nnField_encodeX]
  decide

theorem loadR (x : Reg) : Statement (.loadR x) := by
  simp only [Statement, encode, opcodeMask, opcodeMatch, and_F0FF, opField_encodeX, nnField_encodeX]
  decide

end Sys2Proof.Laws.EncodeMatchesTable
end

