-- ==== Sys2Proof/Tests/Slice0.lean ====
section
/-! SUPPORT. The model's own tests. Expected values are those of spec/95_test_vectors.md (the section is named at each
group) or hand calculations from the rules; the last part shows, for each statement with hypotheses, states and operands
that meet them. -/

namespace Sys2Proof.Machine.Tests

open Sys2Proof Sys2Proof.Machine

/-! ### Helpers -/

/-- The state after one step that finds `op` at pc, with the inputs given. -/
def afterWith (keyIn : BitVec 16) (rnd : Byte) (op : Word) (s : State) : State :=
  match stepCall keyIn rnd (s.storeWord s.pc.toNat op) with
  | .next t => t
  | .fault _ => s
  | .refused _ => s

/-- The state after one step that finds `op` at pc, with no key pressed. -/
def after (op : Word) (s : State) : State := afterWith 0 0 op s

/-- The state after one step of whatever stands at pc. -/
def afterStep (keyIn : BitVec 16) (s : State) : State :=
  match stepCall keyIn 0 s with
  | .next t => t
  | .fault _ => s
  | .refused _ => s

/-- Construction with other parameters. -/
def under (p : Params) : State := { State.reset with params := p }

/-- The byte `b` at `a`, in a state with I = `i`. -/
def withSprite (s : State) (i : Word) (bs : List Byte) : State := { s.writeBytes i.toNat bs with I := i }

/-- The first `k` pixels of a row. -/
def pixels (s : State) (y k : Nat) : List Bool := (List.range k).map fun x => Framebuffer.pixel s.fb y x

/-- Extended mode with the one pixel FB[y][x] set. -/
def extPixel (y x : Nat) : State :=
  { State.reset with ext := true, fb := Framebuffer.toggle Framebuffer.blank y x }

/-- The set pixels of a framebuffer are the one at (y, x). -/
def onlyPixel (s : State) (y x : Nat) : Bool := decide (s.fb = Framebuffer.toggle Framebuffer.blank y x)

/-- Parameters with the strict decoder. -/
def strictParams : Params := { defaultParams with zeroFamilyStrict := true, skipRegStrict := true }

/-! ### Well-formedness: the one check, EXIT under EXIT_MODE = unknown (rule R182) -/

theorem test_wellformed_refuses_exit_under_unknown :
    WellFormed { defaultParams with exitMode := .unknown } .exit = false := by decide

theorem test_wellformed_accepts_exit_under_fault : WellFormed defaultParams .exit = true := by decide

/-! ### Decoding: a word of every constructor, written out from rules R74 to R79 (section 2.1 and the rules' examples) -/

theorem test_decode_family_0 :
    decode defaultParams 0b0000000011100000 = .instr .cls ∧ decode defaultParams 0b0000000011101110 = .instr .ret ∧
    decode defaultParams 0b0000000011000101 = .instr (.scd 5) ∧ decode defaultParams 0b0000000011111011 = .instr .scr ∧
    decode defaultParams 0b0000000011111100 = .instr .scl ∧ decode defaultParams 0b0000000011111101 = .instr .exit ∧
    decode defaultParams 0b0000000011111110 = .instr .low ∧ decode defaultParams 0b0000000011111111 = .instr .high := by
  decide

theorem test_decode_family_0_ignores_x :
    decode defaultParams 0x01E0 = .instr .cls ∧ decode defaultParams 0x01C5 = .instr (.scd 5) ∧
    decode strictParams 0x01E0 = .unknown 0x01E0 ∧ decode strictParams 0x01C5 = .unknown 0x01C5 := by decide

theorem test_decode_jumps :
    decode defaultParams 0b0001001000110100 = .instr (.jp 0x234) ∧
    decode defaultParams 0b0010001100000000 = .instr (.call 0x300) ∧
    decode defaultParams 0b1011001100000000 = .instr (.jpV0 0x300) := by decide

theorem test_decode_skips :
    decode defaultParams 0b0011001101000010 = .instr (.seImm 3 0x42) ∧
    decode defaultParams 0b0100001101000001 = .instr (.sneImm 3 0x41) ∧
    decode defaultParams 0b0101000100100001 = .instr (.seReg 1 2) ∧
    decode defaultParams 0b1001000100101111 = .instr (.sneReg 1 2) ∧
    decode strictParams 0x5121 = .unknown 0x5121 ∧ decode strictParams 0x912F = .unknown 0x912F ∧
    decode strictParams 0x5120 = .instr (.seReg 1 2) := by decide

theorem test_decode_immediates :
    decode defaultParams 0b0110101000101011 = .instr (.ldImm 0xA 0x2B) ∧
    decode defaultParams 0b0111000100000010 = .instr (.addImm 1 0x02) ∧
    decode defaultParams 0b1010000100100011 = .instr (.ldI 0x123) ∧
    decode defaultParams 0b1100001100001111 = .instr (.rnd 3 0x0F) ∧
    decode defaultParams 0b1101000100100000 = .instr (.drw 1 2 0) := by decide

theorem test_decode_family_8 :
    decode defaultParams 0b1000000100100000 = .instr (.mov 1 2) ∧ decode defaultParams 0b1000000100100001 = .instr (.or 1 2) ∧
    decode defaultParams 0b1000000100100010 = .instr (.and 1 2) ∧ decode defaultParams 0b1000000100100011 = .instr (.xor 1 2) ∧
    decode defaultParams 0b1000000100100100 = .instr (.add 1 2) ∧ decode defaultParams 0b1000000100100101 = .instr (.sub 1 2) ∧
    decode defaultParams 0b1000101010110110 = .instr (.shr 0xA) ∧ decode defaultParams 0b1000000100100111 = .instr (.subn 1 2) ∧
    decode defaultParams 0b1000101010111110 = .instr (.shl 0xA) := by decide

theorem test_decode_family_E :
    decode defaultParams 0b1110000110011110 = .instr (.skp 1) ∧ decode defaultParams 0b1110000110100001 = .instr (.sknp 1) := by
  decide

theorem test_decode_family_F :
    decode defaultParams 0b1111010100000111 = .instr (.ldVxDt 5) ∧ decode defaultParams 0b1111000100001010 = .instr (.ldVxK 1) ∧
    decode defaultParams 0b1111010100010101 = .instr (.ldDtVx 5) ∧ decode defaultParams 0b1111000100011000 = .instr (.ldStVx 1) ∧
    decode defaultParams 0b1111111100011110 = .instr (.addI 0xF) ∧ decode defaultParams 0b1111000000101001 = .instr (.ldF 0) ∧
    decode defaultParams 0b1111000000110000 = .instr (.ldHF 0) ∧ decode defaultParams 0b1111010000110011 = .instr (.ldB 4) ∧
    decode defaultParams 0b1111001101010101 = .instr (.store 3) ∧ decode defaultParams 0b1111001101100101 = .instr (.load 3) ∧
    decode defaultParams 0b1111011101110101 = .instr (.storeR 7) ∧ decode defaultParams 0b1111001010000101 = .instr (.loadR 2) := by
  decide +kernel

theorem test_decode_unknown :
    decode defaultParams 0x0000 = .unknown 0x0000 ∧ decode defaultParams 0x0123 = .unknown 0x0123 ∧
    decode defaultParams 0x00D0 = .unknown 0x00D0 ∧ decode defaultParams 0x8008 = .unknown 0x8008 ∧
    decode defaultParams 0x800D = .unknown 0x800D ∧ decode defaultParams 0x800F = .unknown 0x800F ∧
    decode defaultParams 0xE19F = .unknown 0xE19F ∧ decode defaultParams 0xF1FF = .unknown 0xF1FF ∧
    decode defaultParams 0xF100 = .unknown 0xF100 ∧ decode defaultParams 0xF131 = .unknown 0xF131 := by
  decide +kernel

theorem test_decode_exit_under_unknown :
    decode { defaultParams with exitMode := .unknown } 0x00FD = .unknown 0x00FD := by decide

theorem test_encode : encode (.drw 1 2 5) = 0xD125 ∧ encode (.call 0x210) = 0x2210 ∧ encode (.ldB 0) = 0xF033 := by decide

theorem test_decodeBytes :
    decodeBytes defaultParams [0x12, 0x34, 0x60] = some (.instr (.jp 0x234), [0x60]) ∧
    decodeBytes defaultParams [0x12] = none := by decide

theorem test_decodeTableWord :
    decodeTableWord 16 0x6A2B = some (.ldImm 0xA 0x2B) ∧ decodeTableWord 16 0x00E0 = some .cls ∧
    decodeTableWord 16 0x800D = none := by decide

theorem test_withFetchWord :
    (State.reset.withFetchWord 16 0x6A2B).fetchWord = 0x6A2B ∧ (State.reset.withFetchWord 16 0x6A2B).pc = 0x200 ∧
    (State.reset.withFetchWord 16 0x6A2B).readByte 0x200 = 0x6A := by decide

/-! ### Control flow (section 2.2) -/

theorem test_jp : (after 0x1234 State.reset).pc = 0x234 ∧ (after 0x1201 State.reset).pc = 0x201 := by decide

theorem test_call_pushes_next_address :
    let t := after 0x2300 { State.reset with sp := 15 }
    t.stack[15] = 0x202 ∧ t.sp = 16 ∧ t.pc = 0x300 := by decide

theorem test_call_overflow :
    let t := after 0x2300 { State.reset with sp := 16 }
    t.fault = some (.stackOverflow 0x200) ∧ t.sp = 16 ∧ t.pc = 0x200 ∧ t.stack = State.reset.stack := by decide

theorem test_ret :
    let t := after 0x00EE { State.reset with pc := 0x300, sp := 1, stack := State.reset.stack.set 0 0x202 }
    t.sp = 0 ∧ t.pc = 0x202 ∧ t.stack[0] = 0x202 := by decide

theorem test_ret_underflow : (after 0x00EE { State.reset with pc := 0x300 }).fault = some (.stackUnderflow 0x300) := by decide

theorem test_jpV0 : (after 0xBFFF (State.reset.setV 0 0xFF)).pc = 0x10FE := by decide

theorem test_jpV0_by_vx :
    (after 0xB300 (((under { defaultParams with bnnnUsesVx := true }).setV 0 0x10).setV 3 0x20)).pc = 0x320 := by decide

theorem test_skip_immediate :
    let s := State.reset.setV 3 0x42
    (after 0x3342 s).pc = 0x204 ∧ (after 0x3341 s).pc = 0x202 ∧ (after 0x4342 s).pc = 0x202 ∧ (after 0x4341 s).pc = 0x204 := by
  decide

theorem test_skip_register :
    let s := (State.reset.setV 1 7).setV 2 8
    (after 0x5120 s).pc = 0x202 ∧ (after 0x9120 s).pc = 0x204 ∧ (after 0x5110 s).pc = 0x204 ∧ (after 0x9110 s).pc = 0x202 := by
  decide

theorem test_skip_past_memory :
    let t := after 0x3000 { State.reset with pc := 0xFFC }
    t.pc = 0x1000 ∧ (afterStep 0 t).fault = some (.memoryOutOfRange 0x1000) := by decide

theorem test_fetch_checks :
    (afterStep 0 { under { defaultParams with pcAlignCheck := true } with pc := 0x201 }).fault = some (.misalignedFetch 0x201) ∧
    (afterStep 0 { under { defaultParams with fetchLowCheck := true } with pc := 0x100 }).fault = some (.lowFetch 0x100) ∧
    (afterStep 0 { State.reset with pc := 0xFFF }).fault = some (.memoryOutOfRange 0x1000) ∧
    (afterStep 0 { State.reset with pc := 0x10FE }).fault = some (.memoryOutOfRange 0x10FE) := by decide

/-! ### Register operations (S1 to S4, section 2.3) -/

theorem test_ldImm : (after 0x6A2B State.reset).v 0xA = 0x2B ∧ (after 0x6F07 State.reset).v 15 = 0x07 := by decide

theorem test_addImm_wraps_without_flag :
    let t := after 0x7102 (State.reset.setV 1 0xFF)
    t.v 1 = 0x01 ∧ t.v 15 = 0 := by decide

theorem test_addImm_vf_quirk :
    (after 0x7F10 (State.reset.setV 15 5)).v 15 = 5 ∧
    (after 0x7F10 ((under { defaultParams with quirkVfAddExclusion := false }).setV 15 5)).v 15 = 0x15 := by decide

theorem test_mov : (after 0x8120 ((State.reset.setV 1 0x12).setV 2 0x34)).v 1 = 0x34 := by decide

theorem test_logic :
    let s := ((State.reset.setV 1 0xF0).setV 2 0x3C).setV 15 9
    (after 0x8121 s).v 1 = 0xFC ∧ (after 0x8122 s).v 1 = 0x30 ∧ (after 0x8123 s).v 1 = 0xCC ∧
    (after 0x8121 s).v 15 = 9 ∧ (after 0x8122 s).v 15 = 9 ∧ (after 0x8123 s).v 15 = 9 := by decide

theorem test_add_carry :
    let t := after 0x8124 ((State.reset.setV 1 0xC8).setV 2 0x64)
    t.v 1 = 0x2C ∧ t.v 15 = 1 := by decide

theorem test_add_no_carry :
    let t := after 0x8124 ((State.reset.setV 1 0x7F).setV 2 0x80)
    t.v 1 = 0xFF ∧ t.v 15 = 0 := by decide

theorem test_sub :
    let s := (State.reset.setV 1 3).setV 2 5
    (after 0x8125 s).v 1 = 0xFE ∧ (after 0x8125 s).v 15 = 0 ∧ (after 0x8115 s).v 1 = 0 ∧ (after 0x8115 s).v 15 = 1 := by decide

theorem test_subn :
    let s := (State.reset.setV 1 5).setV 2 3
    (after 0x8127 s).v 1 = 0xFE ∧ (after 0x8127 s).v 15 = 0 ∧ (after 0x8217 s).v 2 = 2 ∧ (after 0x8217 s).v 15 = 1 := by decide

theorem test_shr :
    (after 0x8206 (State.reset.setV 2 0x81)).v 2 = 0x40 ∧ (after 0x8206 (State.reset.setV 2 0x81)).v 15 = 1 ∧
    (after 0x8206 (State.reset.setV 2 0x80)).v 15 = 0 := by decide

theorem test_shl :
    let t := after 0x812E (State.reset.setV 1 0x81)
    let u := after 0x812E ((under { defaultParams with shlFlagRaw := true }).setV 1 0x81)
    t.v 1 = 0x02 ∧ t.v 2 = 0 ∧ t.v 15 = 1 ∧ u.v 1 = 0x02 ∧ u.v 15 = 0x80 := by decide

theorem test_flag_into_vf :
    (after 0x8F14 (((under { defaultParams with vfResultOrder := .flagLast }).setV 15 0x10).setV 1 0xF5)).v 15 = 1 ∧
    (after 0x8F14 (((under { defaultParams with vfResultOrder := .resultLast }).setV 15 0x10).setV 1 0xF5)).v 15 = 5 := by
  decide

theorem test_flag_into_vf_unspecified (s : State) (h : s.params.vfResultOrder = .unspecified) :
    (s.writeRF vf 5 1).v vf = Config.freeByte s.draws := by
  rw [State.writeRF_unspecified h, State.v_setV, if_pos rfl]

theorem test_ldI : (after 0xA123 State.reset).I = 0x123 ∧ (after 0xA123 State.reset).pc = 0x202 := by decide

theorem test_rnd :
    (afterWith 0 0xAB 0xC30F State.reset).v 3 = 0x0B ∧ (afterWith 0 0xAB 0xC300 State.reset).v 3 = 0 := by decide

/-! ### The framebuffer (S5, S9, section 2.4) -/

theorem test_cls :
    let t := after 0x00E0 (extPixel 63 127)
    t.fb = Framebuffer.blank ∧ t.dirty = true := by decide +kernel

theorem test_drw_wraps_horizontally :
    let t := after 0xD011 (withSprite (State.reset.setV 0 60) 0x300 [0xFF])
    pixels t 0 64 = List.replicate 4 true ++ List.replicate 56 false ++ List.replicate 4 true ∧ t.v 15 = 0 ∧ t.dirty = true := by
  decide +kernel

theorem test_drw_collision :
    let t := after 0xD011 (withSprite { State.reset with fb := Framebuffer.toggle Framebuffer.blank 0 0 } 0x300 [0xC0])
    pixels t 0 3 = [false, true, false] ∧ t.v 15 = 1 := by decide +kernel

theorem test_drw_reads_coordinates_first :
    let t := after 0xDFF1 (withSprite (State.reset.setV 15 3) 0x300 [0x80])
    onlyPixel t 3 3 = true ∧ t.v 15 = 0 := by decide +kernel

theorem test_drw_base_zero_rows :
    let t := after 0xD010 (State.reset.setV 15 7)
    t.v 15 = 7 ∧ t.dirty = false ∧ t.pc = 0x202 := by decide +kernel

theorem test_drw_faults :
    (after 0xD015 (withSprite (State.reset.setV 1 30) 0x300 [0xFF])).fault = some (.baseRowOutOfRange 30) ∧
    (after 0xD013 { State.reset with I := 0xFFE }).fault = some (.memoryOutOfRange 0x1000) := by decide +kernel

theorem test_drw_vertical_choices :
    let s (bv : BaseVertical) := withSprite ((under { defaultParams with baseVertical := bv }).setV 1 30) 0x300
      [0x80, 0x80, 0x80, 0x80, 0x80]
    let rows (t : State) := (List.range 32).filter fun y => Framebuffer.pixel t.fb y 0
    rows (after 0xD015 (s .wrap)) = [0, 1, 2, 30, 31] ∧ rows (after 0xD015 (s .clip)) = [30, 31] := by decide +kernel

theorem test_drw_extended_clips :
    let s := withSprite { (State.reset.setV 0 124).setV 1 63 with ext := true } 0x300 [0xFF]
    (List.range 128).filter (fun x => Framebuffer.pixel (after 0xD011 s).fb 63 x) = [124, 125, 126, 127] ∧
    (after 0xD011 s).v 15 = 0 := by decide +kernel

theorem test_drw_extended_zero_rows :
    let s (wide : Bool) := withSprite { under { defaultParams with dxy0Wide := wide } with ext := true } 0x300
      ((List.replicate 16 [0x80, 0x01]).flatten)
    (List.range 128).filter (fun x => Framebuffer.pixel (after 0xD010 (s true)).fb 15 x) = [0, 15] ∧
    (List.range 128).filter (fun x => Framebuffer.pixel (after 0xD010 (s false)).fb 15 x) = [7] := by decide +kernel

theorem test_scd :
    onlyPixel (after 0x00C3 (extPixel 0 5)) 3 5 = true ∧ (after 0x00C3 (extPixel 61 5)).fb = Framebuffer.blank := by
  decide +kernel

theorem test_scr :
    onlyPixel (after 0x00FB (extPixel 0 0)) 0 4 = true ∧ (after 0x00FB (extPixel 0 125)).fb = Framebuffer.blank := by
  decide +kernel

theorem test_scl :
    onlyPixel (after 0x00FC (extPixel 0 4)) 0 0 = true ∧ (after 0x00FC (extPixel 0 2)).fb = Framebuffer.blank := by
  decide +kernel

theorem test_base_mode_scroll :
    let s (m : BaseModeScroll) := { under { defaultParams with baseModeScroll := m } with
      fb := Framebuffer.toggle Framebuffer.blank 0 62 }
    (after 0x00FB (s .full)).fb = Framebuffer.blank ∧ onlyPixel (after 0x00FB (s .noop)) 0 62 = true ∧
    (after 0x00FB (s .noop)).dirty = false := by decide +kernel

theorem test_mode_switch :
    let s (m : ModeSwitchFb) := { extPixel 0 5 with params := { defaultParams with modeSwitchFb := m } }
    (after 0x00FE (s .keep)).ext = false ∧ onlyPixel (after 0x00FE (s .keep)) 0 5 = true ∧
    (after 0x00FE (s .clear)).fb = Framebuffer.blank ∧ (after 0x00FF (s .clear)).ext = true := by decide +kernel

theorem test_exit :
    (after 0x00FD State.reset).fault = some (.exitUnmodelled 0x200) ∧ (after 0x00FD State.reset).pc = 0x200 ∧
    (after 0x00FD (under { defaultParams with exitMode := .unknown })).report = .unknownOpcode 0x00FD 0x200 := by decide

/-- Rule R271's table: the reasons in the order of their codes. -/
theorem test_fault_codes :
    [Fault.stackOverflow 0, .stackUnderflow 0, .memoryOutOfRange 0, .misalignedFetch 0, .lowFetch 0, .keyIndexOutOfRange 0,
      .auxIndexOutOfRange 0, .baseRowOutOfRange 0, .exitUnmodelled 0].map Fault.code = [1, 2, 3, 4, 5, 6, 7, 8, 9] := by decide

/-- Rule R271: the code that the host reads off a RET on the empty stack, and off LD R, V8. -/
theorem test_fault_code_read :
    (after 0x00EE State.reset).faultOf.map Fault.code = some 2 ∧ (after 0xF875 State.reset).faultOf.map Fault.code = some 7 ∧
    State.reset.faultOf.map Fault.code = none := by decide

/-! ### Keys (S6, section 2.5) -/

theorem test_skp :
    let s := State.reset.setV 2 0x0A
    (afterWith 0x0400 0 0xE29E s).pc = 0x204 ∧ (after 0xE29E s).pc = 0x202 ∧
    (after 0xE29E (State.reset.setV 2 0x10)).fault = some (.keyIndexOutOfRange 0x10) := by decide

theorem test_sknp :
    let s := State.reset.setV 2 0x0A
    (afterWith 0x0400 0 0xE2A1 s).pc = 0x202 ∧ (after 0xE2A1 s).pc = 0x204 := by decide

theorem test_key_wait_enters :
    let t := afterWith 0x0020 0 0xF30A State.reset
    t.ctl = .awaitingKey 3 ∧ t.pc = 0x200 ∧ t.v 3 = 0 := by decide

theorem test_key_wait_resolves :
    let t := afterStep 0x4084 { State.reset with ctl := .awaitingKey 3 }
    t.v 3 = 2 ∧ t.pc = 0x202 ∧ t.ctl = .running := by decide

/-! ### Timers, index and memory blocks (S7, S8, section 2.6) -/

theorem test_timer_transfers :
    (after 0xF507 { State.reset with DT := 0x3C }).v 5 = 0x3C ∧ (after 0xF515 (State.reset.setV 5 0x3C)).DT = 0x3C ∧
    (after 0xF118 (State.reset.setV 1 2)).ST = 2 ∧ (after 0xF118 (State.reset.setV 1 2)).soundOn = true := by decide

theorem test_tick :
    let t := ({ State.reset with DT := 2, ST := 1 }).tick
    t.DT = 1 ∧ t.ST = 0 ∧ t.soundOn = false ∧ t.tick.ST = 0 := by decide

theorem test_addI :
    (after 0xF01E { State.reset.setV 0 2 with I := 0xFFFF }).I = 1 ∧
    (after 0xFF1E { State.reset.setV 15 5 with I := 0x300 }).I = 0x300 := by decide

theorem test_ldF : (after 0xF029 (State.reset.setV 0 0x1A)).I = 0x032 ∧ (after 0xF029 (State.reset.setV 0 0x0F)).I = 0x04B := by
  decide

theorem test_ldHF : (after 0xF030 (State.reset.setV 0 9)).I = 0x0AA ∧ (after 0xF030 (State.reset.setV 0 0xFF)).I = 0xA46 := by
  decide

theorem test_ldB :
    let t := after 0xF433 { State.reset.setV 4 0xCD with I := 0x300 }
    [t.readByte 0x300, t.readByte 0x301, t.readByte 0x302] = [2, 0, 5] ∧ t.I = 0x300 := by decide

theorem test_ldB_range :
    (after 0xF033 { State.reset with I := 0xFFE }).fault = some (.memoryOutOfRange 0x1000) ∧
    (after 0xF033 { State.reset with I := 0xFFD }).fault = none := by decide

theorem test_store :
    let s := { (((State.reset.setV 0 0x11).setV 1 0x22).setV 2 0x33).setV 3 0x44 with
      I := 0x300, params := { defaultParams with loadStoreIncrementsI := true } }
    let t := after 0xF355 s
    [t.readByte 0x300, t.readByte 0x301, t.readByte 0x302, t.readByte 0x303, t.readByte 0x304] = [0x11, 0x22, 0x33, 0x44, 0] ∧
    t.I = 0x304 := by decide

theorem test_store_range : (after 0xFF55 { State.reset with I := 0xFF1 }).fault = some (.memoryOutOfRange 0x1000) := by decide

theorem test_load :
    let t := after 0xF165 (withSprite State.reset 0x300 [7, 8, 9])
    [t.v 0, t.v 1, t.v 2] = [7, 8, 0] ∧ t.I = 0x300 := by decide

theorem test_load_range : (after 0xF065 { State.reset with I := 0x2000 }).fault = some (.memoryOutOfRange 0x2000) := by decide

theorem test_storeR :
    let t := after 0xF175 ((State.reset.setV 0 1).setV 1 2)
    t.auxByte 0 = 1 ∧ t.auxByte 1 = 2 ∧ t.auxByte 2 = 0 ∧
    (after 0xF875 State.reset).fault = some (.auxIndexOutOfRange 8) := by decide

theorem test_loadR :
    let t := after 0xF285 { State.reset with aux := #v[7, 8, 9, 4, 0, 0, 0, 0] }
    [t.v 0, t.v 1, t.v 2, t.v 3] = [7, 8, 9, 0] := by decide

theorem test_unknown :
    let t := after 0xF0FF State.reset
    t.report = .unknownOpcode 0xF0FF 0x200 ∧ t.pc = 0x202 ∧ t.fault = none := by decide

/-! ### Construction and reset (sections 2.2, 2.7, S10) -/

theorem test_fonts :
    State.reset.readByte 0 = 0xF0 ∧ State.reset.readByte 0x4F = 0x80 ∧ State.reset.readByte 0x50 = 0xFF ∧
    State.reset.readByte 0xB4 = 0 ∧ State.reset.readByte 0xFFF = 0 := by decide

theorem test_load_bound :
    construct defaultParams (List.replicate 3585 0) = .error 3585 ∧
    construct defaultParams [] = .ok State.reset := by decide +kernel

theorem test_reset_keeps_aux :
    let s := { State.reset with aux := #v[1, 2, 3, 4, 5, 6, 7, 8], fault := some (.stackOverflow 0x200), pc := 0x300 }
    let t := s.hostReset [0x60]
    t.aux = #v[1, 2, 3, 4, 5, 6, 7, 8] ∧ t.fault = none ∧ t.pc = 0x200 ∧ t.readByte 0x200 = 0x60 := by decide

theorem test_faulted_step :
    let s := { State.reset with fault := some (.stackOverflow 0x200) }
    afterStep 0xFFFF s = { s with report := .faulted (.stackOverflow 0x200) } := by decide +kernel

theorem test_memory_canonical :
    (State.reset.writeByte 0x300 5).mem = [(0x300, 5)] ∧ ((State.reset.writeByte 0x300 5).writeByte 0x300 0).mem = [] ∧
    (State.reset.writeByte 0 0xF0).mem = [] := by decide

/-- The first step after reset runs the instruction placed for it, whatever its free inputs are (log 14). -/
theorem test_step_runs_first_instruction :
    (match step (State.reset.withFetchWord 16 0x6A2B) with
      | .next t => decide (t.v 0xA = 0x2B ∧ t.pc = 0x202)
      | .fault _ => false
      | .refused _ => false) = true := by decide +kernel

/-! ### Witnesses: for each statement with hypotheses, states and operands that meet them, at the bounds of each clause.
A hypothesis that exec or a host call answers a next state is met in every state (Laws/Step.lean: exec_next, hostCall_next,
stepCall_next, step_next). -/

/-- A state that is ready to fetch `op` at the last address that a fetch may start at. -/
def fetching (op : Word) : State := ({ State.reset with pc := 0xFFE }).storeWord 0xFFE op

/-- A state with a latched fault. -/
def faulted : State := { State.reset with fault := some (.memoryOutOfRange 0x1000) }

/-- A state that waits for a key for VF. -/
def waiting : State := { State.reset with ctl := .awaitingKey 15, pc := 0xFFE }

/-- Extended mode. -/
def extended : State := { State.reset with ext := true }

/-- DecodeOfEncodeIsInstruction, DecodedWordIsEncodedUpToIgnoredBits. -/
theorem witness_decode_encode :
    WellFormed strictParams (.seReg 15 0) = true ∧ WellFormed defaultParams .exit = true ∧
    decode defaultParams 0x5F0F = .instr (.seReg 15 0) ∧ decode strictParams 0x5F00 = .instr (.seReg 15 0) := by decide

/-- UnknownWordsAreExactlyTheListed: each disjunct, at its bounds; the words next to them decode. -/
theorem witness_unknown_words :
    decode defaultParams 0x00FA = .unknown 0x00FA ∧ decode defaultParams 0x00BF = .unknown 0x00BF ∧
    decode defaultParams 0x00D0 = .unknown 0x00D0 ∧ decode defaultParams 0x8008 = .unknown 0x8008 ∧
    decode defaultParams 0x800D = .unknown 0x800D ∧ decode defaultParams 0x800F = .unknown 0x800F ∧
    decode defaultParams 0xE09F = .unknown 0xE09F ∧ decode defaultParams 0xF0FF = .unknown 0xF0FF ∧
    decode defaultParams 0x00CF = .instr (.scd 15) ∧ decode defaultParams 0x00FB = .instr .scr := by decide +kernel

/-- StrictParametersMakeWordsUnknown. -/
theorem witness_strict :
    opField 0x01E0 = 0x0 ∧ xField 0x01E0 ≠ 0 ∧ strictParams.zeroFamilyStrict = true ∧
    opField 0x0FE0 = 0x0 ∧ nnField 0x0FE0 = nnField 0x01E0 ∧ defaultParams.zeroFamilyStrict = false ∧
    nnField 0x00FD = 0xFD ∧ opField 0x5121 = 0x5 ∧ opField 0x9121 = 0x9 := by decide

/-- StepRunsFetchedInstruction, both clauses; StepMovesTimersOnlyByTheirWrites. -/
theorem witness_fetching :
    (fetching 0xF515).Ready ∧ (fetching 0xF515).CanFetch ∧ (fetching 0xF515).pending = [] ∧
    decode (fetching 0xF515).params (fetching 0xF515).wordAtPc = .instr (.ldDtVx 5) ∧
    ({ fetching 0xF515 with pending := [.step 1 2, .tick] }).Ready := by
  unfold State.Ready State.CanFetch; decide

/-- UnknownOpcodeReportsAndAdvances. -/
theorem witness_unknown :
    (fetching 0x800F).Ready ∧ (fetching 0x800F).CanFetch ∧
    decode (fetching 0x800F).params (fetching 0x800F).wordAtPc = .unknown 0x800F := by
  unfold State.Ready State.CanFetch; decide

/-- FetchFaultsInOrder: each clause at its bounds, and the fetches next to them. -/
theorem witness_fetch_faults :
    let aligned := under { defaultParams with pcAlignCheck := true, fetchLowCheck := true }
    ({ aligned with pc := 0x1001 }).fetchFault = some (.misalignedFetch 0x1001) ∧
    ({ aligned with pc := 0x1FE }).fetchFault = some (.lowFetch 0x1FE) ∧ ({ aligned with pc := 0x200 }).fetchFault = none ∧
    ({ State.reset with pc := 0x1000 }).fetchFault = some (.memoryOutOfRange 0x1000) ∧
    ({ State.reset with pc := 0xFFF }).fetchFault = some (.memoryOutOfRange 0x1000) ∧
    ({ State.reset with pc := 0xFFE }).fetchFault = none ∧ ({ State.reset with pc := 0 }).fetchFault = none := by decide

/-- FaultedInstanceIsStuck: a run through all three calls, and a reset at the longest image. -/
theorem witness_faulted :
    faulted.fault = some (.memoryOutOfRange 0x1000) ∧
    (match runCalls [.step 0xFFFF 1, .tick, .clearDirty] faulted with
      | .next t => decide (t.fault = faulted.fault)
      | .fault _ => false
      | .refused _ => false) = true ∧
    (List.replicate 3584 (0 : Byte)).length ≤ 3584 := by
  refine ⟨rfl, by decide +kernel, ?_⟩
  rw [List.length_replicate]

/-- FaultsArePrecise. -/
theorem witness_precise_fault :
    State.reset.fault = none ∧ (after 0x00EE State.reset).fault = some (.stackUnderflow 0x200) := by decide

/-- KeyWaitResolvesToLowestKey: the lowest and the highest key, and none. -/
theorem witness_key_wait :
    waiting.fault = none ∧ waiting.ctl = .awaitingKey 15 ∧
    (afterStep 0x0001 waiting).v 15 = 0 ∧ (afterStep 0x8000 waiting).v 15 = 15 ∧ (afterStep 0x8000 waiting).pc = 0x1000 ∧
    (afterStep 0 waiting).ctl = .awaitingKey 15 := by decide

/-- KeyWaitMakesNoProgress: a word of calls of every kind it admits. -/
theorem witness_no_progress :
    (∀ c ∈ [HostCall.step 0 7, .tick, .clearDirty], c = .tick ∨ c = .clearDirty ∨ ∃ rnd, c = .step 0 rnd) ∧
    (match runCalls [.step 0 7, .tick, .clearDirty] { waiting with DT := 1 } with
      | .next t => decide (t.ctl = .awaitingKey 15 ∧ t.DT = 0)
      | .fault _ => false
      | .refused _ => false) = true := by
  refine ⟨?_, by decide +kernel⟩
  intro c hc
  simp only [List.mem_cons, List.not_mem_nil, or_false] at hc
  rcases hc with rfl | rfl | rfl
  · exact .inr (.inr ⟨7, rfl⟩)
  · exact .inl rfl
  · exact .inr (.inl rfl)

/-- HostOperationsTickAndObserve: a frame of either mode. -/
theorem witness_frame :
    State.reset.frame.length = 32 ∧ extended.frame.length = 64 ∧ State.reset.soundOn = false ∧
    ({ State.reset with ST := 1 }).soundOn = true := by decide +kernel

/-- EachComponentHasItsWriters: an instruction outside each list of writers. -/
theorem witness_writers :
    (∃ t, exec (.ldI 0x300) State.reset = .next t) ∧ (∃ t, exec (.store 3) State.reset = .next t) ∧
    State.reset.params.loadStoreIncrementsI = false ∧ ¬ writesFramebuffer (.ldI 0x300) ∧ ¬ mayRaise (.ldI 0x300) ∧
    ¬ setsDirty State.reset (.ldI 0x300) ∧ ¬ writesRegister State.reset.params (.ldI 0x300) 0 :=
  ⟨exec_next _ _, exec_next _ _, rfl, id, id, id, id⟩

/-- DirtyIsSetByDisplayInstructionsAndNeverCleared: an instruction that sets it, one that does not, one that faults, and a
state where it is set. -/
theorem witness_dirty :
    setsDirty State.reset .cls ∧ ¬ setsDirty State.reset (.jp 0) ∧ (after 0x00E0 State.reset).dirty = true ∧
    (after 0x00FD State.reset).fault ≠ none ∧ (after 0x6000 { State.reset with dirty := true }).dirty = true := by
  refine ⟨trivial, id, ?_⟩
  decide +kernel

/-- RegistersAreReadAndWrittenAsTabled. -/
theorem witness_registers :
    ¬ writesRegister defaultParams (.add 1 2) 3 ∧ ¬ readsRegister defaultParams (.add 1 2) 15 ∧
    ¬ readsRegister defaultParams (.mov 1 2) 1 ∧ waiting.ctl = .awaitingKey 15 ∧ (0 : Reg) ≠ 15 := by
  unfold writesRegister readsRegister; decide

/-- NoInstructionReadsTheSoundTimer: both clauses. -/
theorem witness_sound_timer :
    (∃ t, exec (.ldVxDt 0) { State.reset with ST := 9 } = .next t) ∧ (∃ t, exec (.ldStVx 0) State.reset = .next t) :=
  ⟨exec_next _ _, exec_next _ _⟩

/-- EveryStepKeepsTheInvariant: a state at the bounds of the invariant, with memory listed and a key awaited. -/
theorem witness_invariant :
    ({ waiting.writeByte 0xFFF 1 with stack := Vector.replicate 16 0x1000 }).Inv := by
  refine ⟨by decide, by decide, ?_, ?_⟩
  · intro k; revert k; decide
  · intro x _; decide

/-- EveryStepKeepsTheInvariant: pc at the highest address that a jump reaches. -/
theorem witness_invariant_pc : ({ State.reset with pc := 0x10FE }).Inv := by
  refine ⟨by decide, by decide, ?_, ?_⟩
  · intro k; revert k; decide
  · intro x h; cases h

/-- EveryStepKeepsFaultsExplained: a state with a latched fault that is explained. -/
theorem witness_latch_explained : ({ faulted with I := 0xFFE, pc := 0x300 }).LatchExplained := by
  intro r hr
  cases hr
  refine ⟨rfl, by decide, ?_⟩
  decide

/-- ConstructLaysOutTheImage, ResetKeepsTheRplFlags: the longest image accepted and the shortest refused. -/
theorem witness_image :
    (List.replicate 3584 (0 : Byte)).length ≤ 3584 ∧ 3584 < (List.replicate 3585 (0 : Byte)).length := by
  rw [List.length_replicate, List.length_replicate]
  decide

/-- CallPushesTheNextAddress, RetPopsTheReturnAddress, RetAfterCallContinuesAfterTheCall: the stack's bounds. -/
theorem witness_stack :
    ({ State.reset with sp := 15 }).sp.val < 16 ∧ ({ State.reset with sp := 16 }).sp.val = 16 ∧
    ({ State.reset with sp := 16 }).sp.val = (15 : Fin 16).val + 1 ∧ ({ State.reset with sp := 1 }).sp.val = (0 : Fin 16).val + 1 ∧
    State.reset.sp.val = 0 := by decide

/-- JumpTakesItsTarget: the one target above 0xFFE, and a target that is fetched. -/
theorem witness_jump_target :
    State.reset.Ready ∧ 0xFFE < (0xFFF : BitVec 12).toNat ∧ ¬ 0xFFE < (0xFFE : BitVec 12).toNat ∧
    State.reset.params.pcAlignCheck = false := by
  unfold State.Ready; decide

/-- JumpWithOffsetAddsTheRegister: either setting of the parameter. -/
theorem witness_jump_register :
    (3 : Reg).val = (0x300 : BitVec 12).toNat / 256 ∧ (0 : Reg).val = 0 ∧
    ({ defaultParams with bnnnUsesVx := true }).bnnnUsesVx = true := by decide

/-- AddSetsCarry, SubtractionsSetNoBorrow, ShiftRightMovesTheLowBitOut, ShiftLeftMovesTheHighBitOut: the registers next to
VF; and, for VF itself, the orders of rule R136, which are parameters. -/
theorem witness_destination :
    (14 : Reg) ≠ 15 ∧ (0 : Reg) ≠ 15 ∧ defaultParams.vfResultOrder = .unspecified ∧
    ({ defaultParams with vfResultOrder := .flagLast }).vfResultOrder = .flagLast := by decide

/-- DrawRunsUnlessOutOfRange, DrawXorsTheMaskAndDetectsCollision: each clause, the range at its bound. -/
theorem witness_draw :
    ({ State.reset with I := 0xFFF }).I.toNat + rowsOf 1 * rowBytesOf State.reset 1 = 0x1000 ∧
    0x1000 < ({ State.reset with I := 0xFFF }).I.toNat + rowsOf 2 * rowBytesOf State.reset 2 ∧
    BaseRowFault (State.reset.setV 1 31) 1 2 ∧ ¬ BaseRowFault (State.reset.setV 1 31) 1 1 ∧
    ¬ (State.reset.ext = false ∧ (1 : Fin 16) = 0) ∧ ¬ (extended.ext = false ∧ (0 : Fin 16) = 0) := by
  unfold BaseRowFault; decide

/-- DrawXorsTheMaskAndDetectsCollision: a covered cell that is set, one that is not, and a cell that is not covered. -/
theorem witness_sprite :
    let s := withSprite { State.reset with fb := Framebuffer.toggle Framebuffer.blank 31 63 } 0x300 [0xC0]
    SpriteCovers s 63 31 1 31 63 ∧ Framebuffer.pixel s.fb 31 63 = true ∧
    SpriteCovers s 63 31 1 31 0 ∧ Framebuffer.pixel s.fb 31 0 = false ∧ ¬ SpriteCovers s 63 31 1 40 0 := by
  refine ⟨⟨0, 0, by decide, by decide, by decide, ?_⟩, by decide, ⟨0, 1, by decide, by decide, by decide, ?_⟩, by decide, ?_⟩
  · rw [if_neg (by decide)]
    exact ⟨by decide, by decide, by decide⟩
  · rw [if_neg (by decide)]
    exact ⟨by decide, by decide, by decide⟩
  · rintro ⟨r, c, hr, -, -, h⟩
    rw [if_neg (by decide)] at h
    exact absurd h.2.2 (by decide)

/-- ScrollsMoveEveryPixel, ScrollLeftThenRightClearsFourColumns (extended mode); ScrollInBaseMode (each setting). -/
theorem witness_scroll :
    extended.ext = true ∧ State.reset.ext = false ∧ defaultParams.baseModeScroll = .unspecified ∧
    ({ defaultParams with baseModeScroll := .noop }).baseModeScroll = .noop ∧
    ({ defaultParams with baseModeScroll := .full }).baseModeScroll = .full := by decide

/-- ModeSwitchesSetTheMode, ExitRaisesItsFault: the parameters they ask for. -/
theorem witness_mode_params :
    ({ defaultParams with modeSwitchFb := .keep }).modeSwitchFb = .keep ∧
    ({ defaultParams with modeSwitchFb := .clear }).modeSwitchFb = .clear ∧ defaultParams.exitMode = .fault := by decide

/-- KeySkipsReadTheSnapshot: the index at either side of its bound. -/
theorem witness_key_index : ((State.reset.setV 0 15).v 0).toNat < 16 ∧ 16 ≤ ((State.reset.setV 0 16).v 0).toNat := by decide

/-- DecimalDigitsAreStored, RegistersAreStoredAscending, RegistersAreLoadedAscending, StoreThenLoadRestoresRegisters: a
canonical memory, and I at either side of its bound. -/
theorem witness_blocks :
    Memory.wf (initialByte State.reset.params) (State.reset.writeByte 0x300 5).mem = true ∧
    ({ State.reset with I := 0xFFD }).I.toNat + 2 ≤ 0xFFF ∧ 0xFFF < ({ State.reset with I := 0xFFE }).I.toNat + 2 ∧
    ({ State.reset with I := 0xFF0 }).I.toNat + (15 : Reg).val ≤ 0xFFF ∧
    0xFFF < ({ State.reset with I := 0xFF1 }).I.toNat + (15 : Reg).val := by decide

/-- RplFlagsAreSavedAndRestored: the register at either side of its bound. -/
theorem witness_rpl : (7 : Reg).val < 8 ∧ 8 ≤ (8 : Reg).val := by decide

/-- StoredBytesAreFetched: a state that is ready to fetch where a store has just written, at the end of memory; and the digits
of a byte. -/
theorem witness_stored_bytes :
    let s := ({ State.reset with I := 0xFFE }).setV 0 0x60
    let u := { s.writeBytes 0xFFE [0x60, 0x00] with pc := 0xFFE }
    s.I.toNat + (1 : Reg).val ≤ 0xFFF ∧ u.Ready ∧ u.CanFetch ∧ u.pc.toNat = s.I.toNat + (0 : Reg).val ∧
    u.pc.toNat + 1 = s.I.toNat + (1 : Reg).val ∧ (∃ t, exec (.store 1) s = .next t) ∧
    (2 : Byte).toNat = (0xCD : Byte).toNat / 10 ^ (2 - (0 : Fin 3).val) % 10 ∧
    (5 : Byte).toNat = (0xCD : Byte).toNat / 10 ^ (2 - (2 : Fin 3).val) % 10 ∧ (∃ t, exec (.ldB 0) State.reset = .next t) := by
  refine ⟨by decide, ⟨rfl, rfl⟩, ?_, by decide, by decide, exec_next _ _, by decide, by decide, exec_next _ _⟩
  unfold State.CanFetch
  decide

/-- The masks and values of the statements' WordsDecode clauses are met, under either setting of the decoder's parameters. -/
theorem witness_words_family_0 :
    (0x00E0 : Word) &&& zeroFamilyMask 0x00FF strictParams = 0x00E0 ∧ (0x0FE0 : Word) &&& zeroFamilyMask 0x00FF defaultParams = 0x00E0 ∧
    (0x0FEE : Word) &&& zeroFamilyMask 0x00FF defaultParams = 0x00EE ∧ (0x0FFB : Word) &&& zeroFamilyMask 0x00FF defaultParams = 0x00FB ∧
    (0x0FFC : Word) &&& zeroFamilyMask 0x00FF defaultParams = 0x00FC ∧ (0x0FFD : Word) &&& zeroFamilyMask 0x00FF defaultParams = 0x00FD ∧
    (0x0FFE : Word) &&& zeroFamilyMask 0x00FF defaultParams = 0x00FE ∧ (0x0FFF : Word) &&& zeroFamilyMask 0x00FF defaultParams = 0x00FF ∧
    (0x0FCF : Word) &&& zeroFamilyMask 0x00F0 defaultParams = 0x00C0 := by decide

theorem witness_words_skip_register :
    (0x5121 : Word) &&& skipRegMask defaultParams = 0x5000 ∧ (0x5120 : Word) &&& skipRegMask strictParams = 0x5000 ∧
    (0x9121 : Word) &&& skipRegMask defaultParams = 0x9000 ∧ (0x9120 : Word) &&& skipRegMask strictParams = 0x9000 := by decide

theorem witness_words_other :
    (0x1FFF : Word) &&& 0xF000 = 0x1000 ∧ (0xDFFF : Word) &&& 0xF000 = 0xD000 ∧ (0x8FF6 : Word) &&& 0xF00F = 0x8006 ∧
    (0xEF9E : Word) &&& 0xF0FF = 0xE09E ∧ (0xFF85 : Word) &&& 0xF0FF = 0xF085 := by decide

end Sys2Proof.Machine.Tests
end

section
/-! SUPPORT. The fetch of a step, the two instructions that store bytes, and the statements of 20_memory.md. -/

namespace Sys2Proof.Machine

/-! ### The step of a machine that is ready to fetch -/

/-- A step of a ready machine runs the word at pc behind the fetch checks; neither depends on the step's inputs (rules R71,
R100). -/
theorem stepCall_of_ready {s : State} (hready : s.Ready) (keyIn : BitVec 16) (rnd : Byte) :
    stepCall keyIn rnd s = guarded s.fetchFault (s.beginStep keyIn rnd) (execWord s.wordAtPc) := by
  obtain ⟨hfault, hctl⟩ := hready
  have hctl' : (s.beginStep keyIn rnd).ctl = .running := hctl
  simp only [stepCall, hfault, hctl']
  show guarded s.fetchFault _ _ = _
  cases s.fetchFault <;> rfl

/-- A failed fetch check takes its fault, and leaves all else as it was but the step's inputs (rule R272). -/
theorem stepCall_of_fetchFault {s : State} (hready : s.Ready) {r : Fault} (hr : s.fetchFault = some r)
    (keyIn : BitVec 16) (rnd : Byte) :
    ∃ t, stepCall keyIn rnd s = .next t ∧ Faults r { s with keys := keyIn, rnd := rnd } t := by
  rw [stepCall_of_ready hready, hr]
  exact ⟨_, guarded_some _ _ _, rfl⟩

/-- When no fetch check fails, the step is the execution of the word at pc (rules R71, R100). -/
theorem stepCall_of_fetchFault_eq_none {s : State} (hready : s.Ready) (hnone : s.fetchFault = none)
    (keyIn : BitVec 16) (rnd : Byte) :
    stepCall keyIn rnd s = execWord s.wordAtPc { s with keys := keyIn, rnd := rnd, report := .ok } := by
  rw [stepCall_of_ready hready, hnone, guarded_none]
  rfl

theorem State.CanFetch.fetchFault_eq_none {s : State} (h : s.CanFetch) : s.fetchFault = none := by
  obtain ⟨hlast, heven, hlow⟩ := h
  unfold State.fetchFault programStart lastAddress
  rw [if_neg fun ⟨hcheck, hodd⟩ => by have := heven hcheck; omega,
    if_neg fun ⟨hcheck, hlt⟩ => by have := hlow hcheck; omega, if_neg (by omega), if_neg (by omega)]

/-! ### The instructions that store bytes -/

/-- LD [I], Vx whose block lies in memory (rules R238, R243). -/
theorem exec_store_of_le {s : State} {x : Reg} (h : s.I.toNat + x.val ≤ 0xFFF) :
    exec (.store x) s = .next { (s.writeBytes s.I.toNat (s.regsUpTo x)).blockIncrement x with pc := s.pc + 2 } := by
  have hrange : rangeFault s.I (x.val + 1) = none := rangeFault_eq_none.mpr (by omega)
  simp only [exec, execStore, hrange, guarded_none, State.finish_eq, nextPc, State.blockIncrement_pc,
    State.writeBytes_pc]

/-- LD B, Vx whose three digits lie in memory (rules R237, R243). -/
theorem exec_ldB_of_le {s : State} {x : Reg} (h : s.I.toNat + 2 ≤ 0xFFF) :
    exec (.ldB x) s = .next { s.writeBytes s.I.toNat (digitsOf (s.v x)) with pc := s.pc + 2 } := by
  have hrange : rangeFault s.I 3 = none := rangeFault_eq_none.mpr (by omega)
  simp only [exec, execLdB, hrange, guarded_none, State.finish_eq, nextPc, State.writeBytes_pc]

/-- The `k`-th of the consecutive bytes stored at `a` is read at `a + k` (rule R53). -/
theorem State.readByte_writeBytes_add {s : State} (h : s.MemWf) {a : Nat} {bs : List Byte}
    (ha : a + bs.length ≤ 0x1000) {k : Nat} (hk : k < bs.length) :
    (s.writeBytes a bs).readByte (a + k) = bs[k] := by
  rw [State.readByte_writeBytes h ha, dif_pos ⟨by omega, by omega⟩]
  simp

/-- LD [I], Vx leaves V0..Vx in the bytes at I (rule R238). -/
theorem readByte_of_exec_store {s t : State} {x r : Reg} (hwf : s.MemWf) (hle : s.I.toNat + x.val ≤ 0xFFF)
    (hexec : exec (.store x) s = .next t) (hr : r.val ≤ x.val) : t.readByte (s.I.toNat + r.val) = s.v r := by
  obtain rfl : _ = t := Host.Outcome.next.inj ((exec_store_of_le hle).symm.trans hexec)
  have hlen := s.length_regsUpTo x
  calc
    _ = (s.writeBytes s.I.toNat (s.regsUpTo x)).readByte (s.I.toNat + r.val) :=
      State.readByte_congr (by simp) (by simp) _
    _ = (s.regsUpTo x)[r.val] := State.readByte_writeBytes_add hwf (by omega) (by omega)
    _ = s.v r := s.getElem_regsUpTo x (by omega)

theorem length_digitsOf (v : Byte) : (digitsOf v).length = 3 := rfl

theorem toNat_getElem_digitsOf (v : Byte) (k : Fin 3) (hk : k.val < (digitsOf v).length) :
    (digitsOf v)[k.val].toNat = v.toNat / 10 ^ (2 - k.val) % 10 := by
  have hv := v.isLt
  match k with
  | 0 => simp [digitsOf]; omega
  | 1 => simp [digitsOf]; omega
  | 2 => simp [digitsOf]; omega

/-- LD B, Vx leaves the decimal digits of Vx in the three bytes at I (rule R237). -/
theorem readByte_of_exec_ldB {s t : State} {x : Reg} (hwf : s.MemWf) (hle : s.I.toNat + 2 ≤ 0xFFF)
    (hexec : exec (.ldB x) s = .next t) (k : Fin 3) :
    (t.readByte (s.I.toNat + k.val)).toNat = (s.v x).toNat / 10 ^ (2 - k.val) % 10 := by
  obtain rfl : _ = t := Host.Outcome.next.inj ((exec_ldB_of_le hle).symm.trans hexec)
  have hlen := length_digitsOf (s.v x)
  calc
    _ = ((s.writeBytes s.I.toNat (digitsOf (s.v x))).readByte (s.I.toNat + k.val)).toNat := rfl
    _ = (digitsOf (s.v x))[k.val].toNat :=
      congrArg BitVec.toNat (State.readByte_writeBytes_add hwf (by omega) (by omega))
    _ = _ := toNat_getElem_digitsOf (s.v x) k _

/-! ### The statements -/

/-- Settles O8: each branch of the statement is one branch of the fetch checks, in the same order. -/
theorem fetchFaultsInOrder : Obligations.FetchFaultsInOrder := by
  intro s keyIn rnd hready
  split_ifs with hodd hlow hhigh hlast
  · exact stepCall_of_fetchFault hready (if_pos hodd) keyIn rnd
  · exact stepCall_of_fetchFault hready ((if_neg hodd).trans (if_pos hlow)) keyIn rnd
  · exact stepCall_of_fetchFault hready ((if_neg hodd).trans ((if_neg hlow).trans (if_pos hhigh))) keyIn rnd
  · exact stepCall_of_fetchFault hready
      ((if_neg hodd).trans ((if_neg hlow).trans ((if_neg hhigh).trans (if_pos hlast)))) keyIn rnd
  · have hnone : s.fetchFault = none :=
      (if_neg hodd).trans ((if_neg hlow).trans ((if_neg hhigh).trans (if_neg hlast)))
    obtain ⟨t, ht⟩ := stepCall_next keyIn rnd s
    exact ⟨t, ht, (stepCall_of_fetchFault_eq_none hready hnone keyIn rnd).symm.trans ht⟩

/-- Settles O58: the byte at `a` reads as `b` after either store, and the step's word is the two bytes at pc. -/
theorem storedBytesAreFetched : Obligations.StoredBytesAreFetched := by
  intro s t u keyIn rnd a b hwf hmem hparams hready hfetch hstored
  have hread : u.readByte a = b := by
    rw [State.readByte_congr hmem hparams]
    rcases hstored with ⟨x, r, hr, hle, hexec, rfl, rfl⟩ | ⟨x, k, hle, hexec, rfl, hb⟩
    · exact readByte_of_exec_store hwf hle hexec hr
    · exact BitVec.eq_of_toNat_eq ((readByte_of_exec_ldB hwf hle hexec k).trans hb.symm)
  rw [stepCall_of_fetchFault_eq_none hready hfetch.fetchFault_eq_none, State.wordAtPc]
  exact ⟨fun ha => by rw [ha, hread], fun ha => by rw [ha, hread]⟩

end Sys2Proof.Machine
end

section
/-! SUPPORT. The words that the decoder leaves unknown: family by family, then of all words under every setting of the
parameters; and the statement about them of 30_encoding.md. -/

namespace Sys2Proof

/-! ### The words that each family leaves unknown -/

/-- The y nibble is C exactly in the words whose low byte is C0 to CF (rule R72: nn = y:n). -/
theorem yField_eq_C_iff (op : Word) :
    yField op = 0xC ↔ 0xC0 ≤ (nnField op).toNat ∧ (nnField op).toNat ≤ 0xCF := by
  have hnn := (nnField op).isLt
  have hy : (yField op).val = (nnField op).toNat / 16 % 16 := by
    rw [yField_eq]
    simp [Nat.shiftRight_eq_div_pow]
  have hC : (0xC : Fin 16).val = 12 := rfl
  rw [Fin.ext_iff, hy, hC]
  omega

/-- Family 0 past its check of x (rule R77): EXIT's word where EXIT_MODE = unknown, and the low bytes of no row. -/
theorem decodeZero_eq_unknown_iff (p : Params) (op : Word) :
    decodeZero p op = .unknown op ↔
      (nnField op = 0xFD ∧ p.exitMode = .unknown) ∨
      (nnField op ≠ 0xE0 ∧ nnField op ≠ 0xEE ∧ (nnField op).toNat < 0xFB ∧
        ¬ (0xC0 ≤ (nnField op).toNat ∧ (nnField op).toNat ≤ 0xCF)) := by
  have hnn := (nnField op).isLt
  simp only [decodeZero, ne_eq, ← BitVec.toNat_inj, yField_eq_C_iff]
  split <;> simp_all
  · omega

/-- Family 8 (rule R78). -/
theorem decodeAlu_eq_unknown_iff (op : Word) :
    decodeAlu op = .unknown op ↔ (8 ≤ (nField op).val ∧ (nField op).val ≤ 0xD) ∨ (nField op).val = 0xF := by
  have hn := (nField op).isLt
  unfold decodeAlu
  split <;> simp_all
  · omega

/-- Family E (rule R79). -/
theorem decodeKey_eq_unknown_iff (op : Word) :
    decodeKey op = .unknown op ↔ nnField op ≠ 0x9E ∧ nnField op ≠ 0xA1 := by
  simp only [decodeKey, ne_eq, ← BitVec.toNat_inj]
  split <;> simp_all

/-- Family F (rule R79). -/
theorem decodeMisc_eq_unknown_iff (op : Word) :
    decodeMisc op = .unknown op ↔
      nnField op ∉ ([0x07, 0x0A, 0x15, 0x18, 0x1E, 0x29, 0x30, 0x33, 0x55, 0x65, 0x75, 0x85] : List Byte) := by
  simp only [decodeMisc, List.mem_cons, List.not_mem_nil, ← BitVec.toNat_inj]
  split <;> simp_all

namespace Machine

/-! ### All words, under every setting of the parameters -/

/-- The unknown opcodes (rules R77 to R81): in family 0, what its check of x or its dispatch refuses; in families 5 and 9,
what the strict check of n refuses; in families 8, E and F, the words listed whatever the parameters are. -/
theorem decode_eq_unknown_iff (p : Params) (op : Word) :
    decode p op = .unknown op ↔
      (opField op = 0x0 ∧ ((p.zeroFamilyStrict = true ∧ xField op ≠ 0) ∨ decodeZero p op = .unknown op)) ∨
      ((opField op = 0x5 ∨ opField op = 0x9) ∧ p.skipRegStrict = true ∧ nField op ≠ 0) ∨
      UnknownUnderAll op := by
  unfold decode UnknownUnderAll
  rw [← decodeAlu_eq_unknown_iff, ← decodeKey_eq_unknown_iff, ← decodeMisc_eq_unknown_iff]
  have ho := (opField op).isLt
  simp only [← BitVec.toNat_inj (x := opField op)]
  generalize (opField op).toNat = o at ho ⊢
  interval_cases o
  · by_cases hstrict : p.zeroFamilyStrict = true ∧ xField op ≠ 0 <;> simp [hstrict]
  all_goals simp

/-- An unknown opcode is reported with its address and skipped (rule R274). -/
theorem execWord_of_unknown {op : Word} {s : State} (h : decode s.params op = .unknown op) :
    execWord op s = .next { s with report := .unknownOpcode op s.pc, pc := s.pc + 2 } := by
  simp only [execWord, h, execUnknown, State.finish_eq, nextPc]

/-- Settles O3: the default parameters leave family 0's low bytes of no row, and the words listed under every setting. -/
theorem unknownWordsAreExactlyTheListed : Obligations.UnknownWordsAreExactlyTheListed := by
  refine ⟨fun op => ?_, fun p op h => (decode_eq_unknown_iff p op).mpr (.inr (.inr h)),
    fun op s h => execWord_of_unknown h⟩
  rw [decode_eq_unknown_iff, decodeZero_eq_unknown_iff]
  simp [defaultParams]

end Machine
end Sys2Proof
end

section
/-! SUPPORT. The words of the families that one mask selects, the jump, the return and the immediate skips as equations of
exec, a machine that holds a latched fault; and the statements of 40_control_flow.md. -/

namespace Sys2Proof

/-! ### The words that a mask selects -/

theorem opField_and_F000 (op : Word) : opField (op &&& 0xF000) = opField op := by
  rw [and_F000]
  exact opField_encodeA (opField op) 0

theorem encodeX_and (o o' : BitVec 4) (x x' : Reg) (nn nn' : Byte) :
    encodeX o x nn &&& encodeX o' x' nn' = (o &&& o') ++ ((nibble x &&& nibble x') ++ (nn &&& nn')) :=
  BitVec.and_append.trans (congrArg _ BitVec.and_append)

theorem encodeX_or (o o' : BitVec 4) (x x' : Reg) (nn nn' : Byte) :
    encodeX o x nn ||| encodeX o' x' nn' = (o ||| o') ++ ((nibble x ||| nibble x') ++ (nn ||| nn')) :=
  BitVec.or_append.trans (congrArg _ BitVec.or_append)

namespace Machine

/-- The words of a primary family that compares nothing but `o` (rules R72, R76). -/
theorem wordsDecode_of_opField {o : BitVec 4} {f : Word → Instr}
    (h : ∀ p op, opField op = o → decode p op = .instr (f op)) : WordsDecode (fun _ => 0xF000) (encodeA o 0) f := by
  intro p op hop
  apply h
  rw [← opField_and_F000, hop, opField_encodeA]

theorem zeroFamilyMask_encodeX (p : Params) (m : Byte) :
    zeroFamilyMask (encodeX 0 0 m) p = encodeX (BitVec.allOnes 4) (if p.zeroFamilyStrict then 15 else 0) m := by
  unfold zeroFamilyMask
  split
  · exact (encodeX_or 0xF 0 15 0 0 m).trans (by simp [encodeX, nibble])
  · exact (encodeX_or 0xF 0 0 0 0 m).trans (by simp [encodeX, nibble])

/-- What family 0 compares: the family, x if ZERO_FAMILY_STRICT, and the bits of the low byte in `m` (rule R77). -/
theorem and_zeroFamilyMask (p : Params) (op : Word) (m : Byte) :
    op &&& zeroFamilyMask (encodeX 0 0 m) p =
      encodeX (opField op) (if p.zeroFamilyStrict then xField op else 0) (nnField op &&& m) := by
  have h0 : nibble 0 = 0#4 := rfl
  have h15 : nibble 15 = BitVec.allOnes 4 := rfl
  conv_lhs => rw [← encodeX_fields op, zeroFamilyMask_encodeX, encodeX_and, BitVec.and_allOnes]
  split
  · rw [h15, BitVec.and_allOnes, encodeX]
  · rw [h0, BitVec.and_zero, encodeX, h0]

/-- The words that a mask of family 0 selects pass its check of x, and their low byte is compared under `m` (rule R77). -/
theorem decode_of_and_zeroFamilyMask {p : Params} {op : Word} {m nn : Byte}
    (h : op &&& zeroFamilyMask (encodeX 0 0 m) p = encodeX 0 0 nn) :
    decode p op = decodeZero p op ∧ nnField op &&& m = nn := by
  rw [and_zeroFamilyMask] at h
  have hop : opField op = 0 := by simpa using congrArg opField h
  have hx : (if p.zeroFamilyStrict then xField op else 0) = 0 := by simpa using congrArg xField h
  have hnn : nnField op &&& m = nn := by simpa using congrArg nnField h
  refine ⟨?_, hnn⟩
  simp only [decode, hop]
  exact if_neg fun ⟨hstrict, hne⟩ => hne (by simpa [hstrict] using hx)

/-! ### Jump, return and the immediate skips -/

theorem toNat_addressOf (a : BitVec 12) : (addressOf a).toNat = a.toNat :=
  BitVec.toNat_setWidth_of_le (by decide)

theorem exec_jp (a : BitVec 12) (s : State) : exec (.jp a) s = .next { s with pc := addressOf a } := rfl

/-- Of a fetch at the last byte of memory, only the second byte is outside (rule R55). -/
theorem State.fetchFault_of_last {s : State} (hpc : s.pc.toNat = 0xFFF) (halign : s.params.pcAlignCheck = false) :
    s.fetchFault = some (.memoryOutOfRange 0x1000) := by
  simp [State.fetchFault, hpc, halign, programStart, lastAddress]

/-- RET with entries on the stack: the topmost goes to pc (rule R104). -/
theorem exec_ret_of_succ {s : State} {k : Fin 16} (hsp : s.sp.val = k.val + 1) :
    exec .ret s = .next { s with pc := s.stack[k], sp := k.castSucc } := by
  have hpos : 0 < s.sp.val := by omega
  have hdec : (⟨s.sp.val - 1, by omega⟩ : Fin 17) = k.castSucc := Fin.ext (by simp [hsp])
  simp only [exec, execRet, dif_pos hpos, hdec, State.finish_eq, nextPc]
  simp [hsp]

/-- RET with an empty stack (rule R104). -/
theorem exec_ret_of_zero {s : State} (hsp : s.sp.val = 0) :
    exec .ret s = .next (s.takeFault (.stackUnderflow s.pc)) :=
  dif_neg (by omega)

theorem exec_seImm (x : Reg) (nn : Byte) (s : State) :
    exec (.seImm x nn) s = .next { s with pc := if s.v x = nn then s.pc + 4 else s.pc + 2 } := by
  simp only [exec, execSeImm, State.skipIf_eq, decide_eq_true_eq]

theorem exec_sneImm (x : Reg) (nn : Byte) (s : State) :
    exec (.sneImm x nn) s = .next { s with pc := if s.v x = nn then s.pc + 2 else s.pc + 4 } := by
  simp only [exec, execSneImm, State.skipIf_eq, decide_eq_true_eq, ne_eq, ite_not]

/-! ### A latched fault -/

/-- What the calls of a finite word keep, their run keeps. -/
theorem runCalls_induction_of_mem {P : State → Prop} {cs : List HostCall}
    (hstep : ∀ c ∈ cs, ∀ s t, P s → hostCall c s = .next t → P t) {s t : State} (hs : P s)
    (hrun : runCalls cs s = .next t) : P t := by
  induction cs generalizing s with
  | nil => cases hrun; exact hs
  | cons c cs ih =>
    obtain ⟨u, hu⟩ := hostCall_next c s
    simp only [runCalls, hu] at hrun
    exact ih (fun d hd => hstep d (.tail c hd)) (hstep c (.head cs) s u hs hu) hrun

/-- From `s` to `t`: only the timers, the dirty flag and the report may change. -/
def HostFrame (s t : State) : Prop := t = { s with DT := t.DT, ST := t.ST, dirty := t.dirty, report := t.report }

theorem HostFrame.refl (s : State) : HostFrame s s := rfl

theorem HostFrame.trans {s t u : State} (hst : HostFrame s t) (htu : HostFrame t u) : HostFrame s u := by
  rw [HostFrame] at hst htu
  exact htu.trans (by rw [hst])

theorem HostFrame.fault_eq {s t : State} (h : HostFrame s t) : t.fault = s.fault := by
  rw [h]

/-- A step on a faulted machine reports the latched fault again (rule R112). -/
theorem stepCall_of_fault {s : State} {r : Fault} (hr : s.fault = some r) (keyIn : BitVec 16) (rnd : Byte) :
    stepCall keyIn rnd s = .next { s with report := .faulted r } := by
  simp only [stepCall, hr]

/-- A faulted machine is stuck through every call but a reset (rules R112, R273). -/
theorem HostFrame.of_hostCall {c : HostCall} {s t : State} {r : Fault} (hr : s.fault = some r)
    (hreset : ∀ image, c ≠ .reset image) (hcall : hostCall c s = .next t) : HostFrame s t := by
  cases c with
  | step keyIn rnd => rw [hostCall, stepCall_of_fault hr] at hcall; cases hcall; rfl
  | tick => cases hcall; rfl
  | clearDirty => cases hcall; rfl
  | reset image => exact absurd rfl (hreset image)

/-- A timer loses 1 and stays at 0 (rule R280), as subtraction of naturals does. -/
theorem toNat_countDown (t : Byte) : (countDown t).toNat = t.toNat - 1 := by
  unfold countDown
  split
  · bv_omega
  · have hzero : (0 : Byte).toNat = 0 := rfl
    omega

theorem State.hostReset_fault (s : State) {image : List Byte} (h : image.length ≤ 3584) :
    (s.hostReset image).fault = none := by
  rw [State.hostReset_of_le s h]
  exact State.writeBytes_fault _ _ _

/-! ### The statements -/

/-- Settles O9: each call but a reset changes nothing of a faulted machine but what HostFrame allows, the latch not among
it, and so does a run of such calls. -/
theorem faultedInstanceIsStuck : Obligations.FaultedInstanceIsStuck := by
  intro s r hr
  refine ⟨stepCall_of_fault hr, ⟨s.tick, rfl, toNat_countDown _, toNat_countDown _⟩, fun cs t hcs hrun => ?_, ?_⟩
  · have hframe : HostFrame s t := runCalls_induction_of_mem (P := HostFrame s)
      (fun c hc u v hu hv => hu.trans (.of_hostCall (hu.fault_eq.trans hr) (fun i hi => hcs i (hi ▸ hc)) hv))
      (.refl s) hrun
    exact ⟨hframe.fault_eq.trans hr, hframe⟩
  · intro image t hle hcall
    obtain rfl : s.hostReset image = t := Host.Outcome.next.inj hcall
    exact s.hostReset_fault hle

/-- Settles O24: the one target above 0xFFE is 0xFFF, where the fetch of the second byte fails. -/
theorem jumpTakesItsTarget : Obligations.JumpTakesItsTarget := by
  refine ⟨wordsDecode_of_opField (o := 0x1) fun p op hop => by simp [decode, hop], fun a s => ?_⟩
  refine ⟨_, exec_jp a s, toNat_addressOf a, rfl, fun hready hhigh halign keyIn rnd => ?_⟩
  have hlast : (addressOf a).toNat = 0xFFF := by have := a.isLt; rw [toNat_addressOf]; omega
  exact stepCall_of_fetchFault (s := { s with pc := addressOf a }) hready (State.fetchFault_of_last hlast halign) keyIn rnd

/-- Settles O26: the mask of family 0 leads to the dispatch on the low byte EE; the pop is one of two cases of sp. -/
theorem retPopsTheReturnAddress : Obligations.RetPopsTheReturnAddress := by
  refine ⟨fun p op hop => ?_, fun s => ⟨fun k hsp => ?_, fun hsp => ⟨_, exec_ret_of_zero hsp, rfl⟩⟩⟩
  · obtain ⟨hzero, hnn⟩ := decode_of_and_zeroFamilyMask (m := 0xFF) (nn := 0xEE) hop
    have hEE : nnField op = 0xEE := BitVec.and_allOnes.symm.trans hnn
    rw [hzero]
    simp [decodeZero, hEE]
  · exact ⟨_, exec_ret_of_succ hsp, rfl, rfl, fun _ => rfl, rfl⟩

/-- Settles O29: families 3 and 4 compare nothing but the primary opcode, and each skip is one equation of exec. -/
theorem immediateSkipsCompareAndSkip : Obligations.ImmediateSkipsCompareAndSkip :=
  ⟨wordsDecode_of_opField (o := 0x3) fun p op hop => by simp [decode, hop],
    wordsDecode_of_opField (o := 0x4) fun p op hop => by simp [decode, hop],
    fun x nn s => ⟨exec_seImm x nn s, exec_sneImm x nn s⟩⟩

end Machine
end Sys2Proof
end

section
/-! SUPPORT. The words of family 8, the instructions that end in one register write or in a result and flag write, with the
arithmetic of their results on naturals; and the statements of 41_register_ops.md. -/

namespace Sys2Proof.Machine

/-! ### The words of family 8 -/

/-- The words that rule R78 selects by the family and n. -/
theorem wordsDecode_of_nField {n : Fin 16} {f : Word → Instr}
    (h : ∀ op, nField op = n → decodeAlu op = .instr (f op)) : WordsDecode (fun _ => 0xF00F) (encodeXY 0x8 0 0 n) f := by
  intro p op hop
  rw [and_F00F] at hop
  have ho : opField op = 0x8 := by simpa using congrArg opField hop
  have hn : nField op = n := by simpa using congrArg nField hop
  rw [← h op hn, decode, ho]
  rfl

/-! ### Instructions that end in a register write or in a result and flag write -/

section
variable {i : Instr} {s : State} {x : Reg}

/-- An instruction whose effect is to write `b` to Vx (rules R12, R101). -/
theorem exec_of_setV {b : Byte} (h : exec i s = (s.setV x b).finish .advance) :
    ∃ t, exec i s = .next t ∧ t.v x = b ∧ t.pc = s.pc + 2 ∧ RegisterFrame (· = x) s t :=
  ⟨_, h, (State.v_setV s x b x).trans (if_pos rfl), rfl, .of_setV s x b _⟩

variable {r f : Byte}

/-- Where the destination is not VF, both the result and the flag are written (rule R136). -/
theorem exec_of_writeRF_of_ne (h : exec i s = (s.writeRF x r f).finish .advance) (hx : x ≠ 15) :
    ∃ t, exec i s = .next t ∧ t.v x = r ∧ t.v 15 = f ∧ t.pc = s.pc + 2 ∧
      RegisterFrame (fun q => q = x ∨ q = 15) s t := by
  have hV (q : Reg) : ((s.setV x r).setV 15 f).v q = if q = 15 then f else if q = x then r else s.v q := by simp
  rw [s.writeRF_of_ne hx] at h
  refine ⟨_, h, ?_, (hV 15).trans (if_pos rfl), rfl, fun q hq => ?_, fun _ => rfl, rfl⟩
  · exact (hV x).trans ((if_neg hx).trans (if_pos rfl))
  · obtain ⟨hqx, hqf⟩ := not_or.mp hq
    exact (hV q).trans ((if_neg hqf).trans (if_neg hqx))

/-- A result and flag write to VF changes no other register, and beside V the draw counter alone (rule R136). -/
theorem DrawnRegisterFrame.of_writeRF (s : State) (r f : Byte) (pc : Word) :
    DrawnRegisterFrame (· = 15) s { s.writeRF vf r f with pc := pc } where
  registers q hq := s.v_writeRF_other r f hq hq
  memory a := State.readByte_congr (s.writeRF_mem vf r f) (s.writeRF_params vf r f) a
  rest := by rw [s.writeRF_eq]

/-- Where the destination is VF, each order of rule R136 says what VF holds. -/
theorem LeavesInVf.of_writeRF (h : exec i s = (s.writeRF vf r f).finish .advance) : LeavesInVf i r f s := by
  refine ⟨_, h, congrArg (· + 2) (s.writeRF_pc vf r f), fun horder => ?_, fun horder => ?_, .of_writeRF s r f _⟩
  · rw [State.writeRF_flagLast horder]
    exact ⟨(State.v_setV s vf f 15).trans (if_pos rfl), rfl⟩
  · rw [State.writeRF_resultLast horder]
    exact ⟨(State.v_setV s vf r 15).trans (if_pos rfl), rfl⟩

end

/-! ### Results and flags on naturals -/

theorem sub_eq_ofNat (a b : Byte) : a - b = BitVec.ofNat 8 (a.toNat + 256 - b.toNat) := by bv_omega

theorem flagByte_decide (p : Prop) [Decidable p] : flagByte (decide p) = if p then 1 else 0 := by
  simp only [flagByte, decide_eq_true_eq]

theorem shrFlag_eq_ofNat (a : Byte) : shrFlag a = BitVec.ofNat 8 (a.toNat % 2) := by
  rw [← Nat.and_one_is_mod, BitVec.ofNat_and, BitVec.ofNat_toNat, BitVec.setWidth_eq]
  rfl

theorem ushiftRight_one_eq_ofNat (a : Byte) : a >>> 1 = BitVec.ofNat 8 (a.toNat / 2) := by bv_omega

/-- ADD: the sum and the carry (rule R137). -/
theorem exec_add (x y : Reg) (s : State) :
    exec (.add x y) s = (s.writeRF x (BitVec.ofNat 8 ((s.v x).toNat + (s.v y).toNat))
      (if (s.v x).toNat + (s.v y).toNat > 255 then 1 else 0)).finish .advance := by
  simp only [exec, execAdd, carryFlag, flagByte_decide, BitVec.ofNat_add, BitVec.ofNat_toNat, BitVec.setWidth_eq]

/-- SUB: the difference Vx - Vy and the no-borrow flag (rule R138). -/
theorem exec_sub (x y : Reg) (s : State) :
    exec (.sub x y) s = (s.writeRF x (BitVec.ofNat 8 ((s.v x).toNat + 256 - (s.v y).toNat))
      (if (s.v x).toNat ≥ (s.v y).toNat then 1 else 0)).finish .advance := by
  simp only [exec, execSub, noBorrowFlag, flagByte_decide, sub_eq_ofNat]

/-- SUBN: the difference Vy - Vx and the no-borrow flag (rule R140). -/
theorem exec_subn (x y : Reg) (s : State) :
    exec (.subn x y) s = (s.writeRF x (BitVec.ofNat 8 ((s.v y).toNat + 256 - (s.v x).toNat))
      (if (s.v y).toNat ≥ (s.v x).toNat then 1 else 0)).finish .advance := by
  simp only [exec, execSubn, noBorrowFlag, flagByte_decide, sub_eq_ofNat]

/-- SHR: the half and the bit shifted out (rule R139). -/
theorem exec_shr (x : Reg) (s : State) :
    exec (.shr x) s = (s.writeRF x (BitVec.ofNat 8 ((s.v x).toNat / 2))
      (BitVec.ofNat 8 ((s.v x).toNat % 2))).finish .advance := by
  simp only [exec, execShr, shrFlag_eq_ofNat, ushiftRight_one_eq_ofNat]

/-! ### The statements -/

/-- Settles O31: both loads are one write of a register. -/
theorem loadsWriteOneRegister : Obligations.LoadsWriteOneRegister :=
  ⟨wordsDecode_of_opField (o := 0x6) fun p op hop => by simp [decode, hop],
    wordsDecode_of_nField (n := 0x0) fun op hn => by simp [decodeAlu, hn],
    fun _ _ _ => exec_of_setV rfl, fun _ _ _ => exec_of_setV rfl⟩

/-- Settles O34: the result is the sum of naturals in eight bits, and the flag says that it passes 255. -/
theorem addSetsCarry : Obligations.AddSetsCarry := by
  refine ⟨wordsDecode_of_nField (n := 0x4) fun op hn => by simp [decodeAlu, hn], fun x y s hx => ?_,
    fun y s => .of_writeRF (exec_add 15 y s)⟩
  obtain ⟨t, ht, hresult, hrest⟩ := exec_of_writeRF_of_ne (exec_add x y s) hx
  exact ⟨t, ht, by rw [hresult, BitVec.toNat_ofNat], hrest⟩

/-- Settles O35: either result is the difference of naturals, raised by 256, in eight bits. -/
theorem subtractionsSetNoBorrow : Obligations.SubtractionsSetNoBorrow := by
  refine ⟨wordsDecode_of_nField (n := 0x5) fun op hn => by simp [decodeAlu, hn],
    wordsDecode_of_nField (n := 0x7) fun op hn => by simp [decodeAlu, hn], fun x y s hx => ⟨?_, ?_⟩,
    fun y s => ⟨.of_writeRF (exec_sub 15 y s), .of_writeRF (exec_subn 15 y s)⟩⟩
  · obtain ⟨t, ht, hresult, hrest⟩ := exec_of_writeRF_of_ne (exec_sub x y s) hx
    exact ⟨t, ht, by rw [hresult, BitVec.toNat_ofNat], hrest⟩
  · obtain ⟨t, ht, hresult, hrest⟩ := exec_of_writeRF_of_ne (exec_subn x y s) hx
    exact ⟨t, ht, by rw [hresult, BitVec.toNat_ofNat], hrest⟩

/-- Settles O36: the half and the bit shifted out fit in a byte as they are. -/
theorem shiftRightMovesTheLowBitOut : Obligations.ShiftRightMovesTheLowBitOut := by
  refine ⟨wordsDecode_of_nField (n := 0x6) fun op hn => by simp [decodeAlu, hn], fun x s hx => ?_,
    fun s => .of_writeRF (exec_shr 15 s)⟩
  have hlt := (s.v x).isLt
  obtain ⟨t, ht, hresult, hflag, hrest⟩ := exec_of_writeRF_of_ne (exec_shr x s) hx
  refine ⟨t, ht, ?_, ?_, hrest⟩
  · rw [hresult, BitVec.toNat_ofNat, Nat.mod_eq_of_lt (by omega)]
  · rw [hflag, BitVec.toNat_ofNat, Nat.mod_eq_of_lt (by omega)]

/-- Settles O39: the byte written is the conjunction of the step's byte and the mask, bit by bit. -/
theorem randomByteIsMasked : Obligations.RandomByteIsMasked := by
  refine ⟨wordsDecode_of_opField (o := 0xC) fun p op hop => by simp [decode, hop], fun x nn rnd s => ?_⟩
  obtain ⟨t, ht, hbyte, hrest⟩ :=
    exec_of_setV (i := .rnd x nn) (s := { s with rnd := rnd }) (x := x) (b := rnd &&& nn) rfl
  exact ⟨t, ht, fun k => by rw [hbyte, BitVec.getLsbD_and], hrest⟩

end Sys2Proof.Machine
end

section
/-! SUPPORT. The words that the family and the low byte select, the key skips and the entry of the key wait as equations of
exec, the step of a waiting machine; and the statements of 43_keys.md. -/

namespace Sys2Proof.Machine

/-! ### The words that the low byte selects -/

/-- The words that a mask of the family and the low byte selects (rules R72, R79). -/
theorem wordsDecode_of_nnField {o : BitVec 4} {nn : Byte} {f : Word → Instr}
    (h : ∀ p op, opField op = o → nnField op = nn → decode p op = .instr (f op)) :
    WordsDecode (fun _ => 0xF0FF) (encodeX o 0 nn) f := by
  intro p op hop
  rw [and_F0FF] at hop
  exact h p op (by simpa using congrArg opField hop) (by simpa using congrArg nnField hop)

/-! ### The key skips -/

theorem keyIndexFault_of_ge {k : Byte} (h : 16 ≤ k.toNat) : keyIndexFault k = some (.keyIndexOutOfRange k) :=
  if_pos h

section
variable {s : State} {x : Reg}

/-- SKP of a register that names a key (rule R210). -/
theorem exec_skp_of_lt (h : (s.v x).toNat < 16) :
    exec (.skp x) s = .next { s with pc := if s.keys.getLsbD (s.v x).toNat = true then s.pc + 4 else s.pc + 2 } := by
  simp only [exec, execSkp, keyIndexFault_eq_none.mpr h, guarded_none, State.skipIf_eq, State.key]

/-- SKNP of a register that names a key: SKP with its two ways exchanged (rule R211). -/
theorem exec_sknp_of_lt (h : (s.v x).toNat < 16) :
    exec (.sknp x) s = .next { s with pc := if s.keys.getLsbD (s.v x).toNat = true then s.pc + 2 else s.pc + 4 } := by
  simp only [exec, execSknp, keyIndexFault_eq_none.mpr h, guarded_none, State.skipIf_eq, State.key,
    Bool.not_eq_true', ← Bool.not_eq_true, ite_not]

/-- SKP of a register that names no key (rule R212). -/
theorem exec_skp_of_ge (h : 16 ≤ (s.v x).toNat) :
    exec (.skp x) s = .next (s.takeFault (.keyIndexOutOfRange (s.v x))) := by
  simp only [exec, execSkp, keyIndexFault_of_ge h, guarded_some]

/-- SKNP of a register that names no key (rule R212). -/
theorem exec_sknp_of_ge (h : 16 ≤ (s.v x).toNat) :
    exec (.sknp x) s = .next (s.takeFault (.keyIndexOutOfRange (s.v x))) := by
  simp only [exec, execSknp, keyIndexFault_of_ge h, guarded_some]

end

/-! ### The key wait -/

/-- The entry of the key wait (rule R213). -/
theorem exec_ldVxK (x : Reg) (s : State) : exec (.ldVxK x) s = .next { s with ctl := .awaitingKey x } := rfl

/-- No key of the empty snapshot is the lowest. -/
theorem State.lowestKey_of_keys_eq_zero {s : State} (h : s.keys = 0) : s.lowestKey = none := by
  simp [State.lowestKey, State.key, h]

/-- The lowest key is pressed, and no key before it is. -/
theorem State.lowestKey_eq_some {s : State} {k : Nat} :
    s.lowestKey = some k ↔ k < 16 ∧ s.keys.getLsbD k = true ∧ ∀ j, j < k → s.keys.getLsbD j = false := by
  rw [State.lowestKey, List.find?_range_eq_some]
  simp [State.key, and_left_comm]

/-- A step of a waiting machine takes its inputs in and resolves the wait if it can (rule R214). -/
theorem stepCall_of_awaitingKey {s : State} {x : Reg} (hfault : s.fault = none) (hctl : s.ctl = .awaitingKey x)
    (keyIn : BitVec 16) (rnd : Byte) : stepCall keyIn rnd s = .next ((s.beginStep keyIn rnd).resolveKey x) := by
  have hctl' : (s.beginStep keyIn rnd).ctl = .awaitingKey x := hctl
  simp only [stepCall, hfault, hctl']

theorem State.resolveKey_of_none {s : State} (h : s.lowestKey = none) (x : Reg) : s.resolveKey x = s := by
  simp only [State.resolveKey, h]

theorem State.resolveKey_of_some {s : State} {k : Nat} (h : s.lowestKey = some k) (x : Reg) :
    s.resolveKey x = { s.setV x (BitVec.ofNat 8 k) with pc := s.pc + 2, ctl := .running } := by
  simp only [State.resolveKey, h]

/-- With no key pressed, a step of a waiting machine changes nothing but the inputs taken in (rule R216). -/
theorem stepCall_of_no_key {s : State} {x : Reg} (hfault : s.fault = none) (hctl : s.ctl = .awaitingKey x) (rnd : Byte) :
    stepCall 0 rnd s = .next (s.beginStep 0 rnd) := by
  rw [stepCall_of_awaitingKey hfault hctl, State.resolveKey_of_none (State.lowestKey_of_keys_eq_zero rfl)]

/-- The resolving step leaves the lowest pressed key in the awaited register (rule R214). -/
theorem stepCall_of_lowest_key {s : State} {x : Reg} (hfault : s.fault = none) (hctl : s.ctl = .awaitingKey x)
    {keyIn : BitVec 16} {k : Nat} (hk : k < 16) (hpressed : keyIn.getLsbD k = true)
    (hlowest : ∀ j, j < k → keyIn.getLsbD j = false) (rnd : Byte) :
    stepCall keyIn rnd s =
      .next { (s.beginStep keyIn rnd).setV x (BitVec.ofNat 8 k) with pc := s.pc + 2, ctl := .running } := by
  have hlow : (s.beginStep keyIn rnd).lowestKey = some k := State.lowestKey_eq_some.mpr ⟨hk, hpressed, hlowest⟩
  rw [stepCall_of_awaitingKey hfault hctl, State.resolveKey_of_some hlow]
  rfl

/-! ### A wait without a pressed key -/

/-- What a wait without a pressed key does from `s` to `t` through `n` ticks (rule R216): each timer is down by `n`, and
beside the timers only the step's inputs, the report and the dirty flag may change. -/
structure WaitFrame (n : Nat) (s t : State) : Prop where
  delay : t.DT.toNat = s.DT.toNat - n
  sound : t.ST.toNat = s.ST.toNat - n
  rest  : t = { s with keys := t.keys, rnd := t.rnd, report := t.report, DT := t.DT, ST := t.ST, dirty := t.dirty }

theorem WaitFrame.refl (s : State) : WaitFrame 0 s s := ⟨rfl, rfl, rfl⟩

theorem WaitFrame.trans {m n : Nat} {s t u : State} (hst : WaitFrame m s t) (htu : WaitFrame n t u) :
    WaitFrame (m + n) s u where
  delay := by rw [htu.delay, hst.delay, Nat.sub_sub]
  sound := by rw [htu.sound, hst.sound, Nat.sub_sub]
  rest := htu.rest.trans (by rw [hst.rest])

theorem WaitFrame.fault_eq {n : Nat} {s t : State} (h : WaitFrame n s t) : t.fault = s.fault := by rw [h.rest]

theorem WaitFrame.ctl_eq {n : Nat} {s t : State} (h : WaitFrame n s t) : t.ctl = s.ctl := by rw [h.rest]

/-- The calls that rule R216 speaks of: a tick, a clear of the dirty flag, and a step whose snapshot is empty. -/
def HostCall.PressesNoKey (c : HostCall) : Prop := c = .tick ∨ c = .clearDirty ∨ ∃ rnd, c = .step 0 rnd

/-- One such call: a tick is the only one that moves the timers (rules R216, R280). -/
theorem WaitFrame.of_hostCall {c : HostCall} {s t : State} {x : Reg} (hfault : s.fault = none)
    (hctl : s.ctl = .awaitingKey x) (hc : c.PressesNoKey) (hcall : hostCall c s = .next t) :
    WaitFrame (if c = .tick then 1 else 0) s t := by
  obtain rfl | rfl | ⟨rnd, rfl⟩ := hc
  · obtain rfl : s.tick = t := Host.Outcome.next.inj hcall
    exact ⟨toNat_countDown _, toNat_countDown _, rfl⟩
  · obtain rfl : s.clearDirty = t := Host.Outcome.next.inj hcall
    exact ⟨rfl, rfl, rfl⟩
  · obtain rfl : s.beginStep 0 rnd = t :=
      Host.Outcome.next.inj ((stepCall_of_no_key hfault hctl rnd).symm.trans hcall)
    exact ⟨rfl, rfl, rfl⟩

/-- Any finite word of such calls: the wait goes on, and the timers are down by the ticks of the word (rule R216). -/
theorem WaitFrame.of_runCalls {cs : List HostCall} {s t : State} {x : Reg} (hfault : s.fault = none)
    (hctl : s.ctl = .awaitingKey x) (hcs : ∀ c ∈ cs, c.PressesNoKey) (hrun : runCalls cs s = .next t) :
    WaitFrame (cs.count .tick) s t := by
  induction cs generalizing s with
  | nil => cases hrun; exact .refl t
  | cons c cs ih =>
    obtain ⟨u, hu⟩ := hostCall_next c s
    simp only [runCalls, hu] at hrun
    have hfirst : WaitFrame (if c = .tick then 1 else 0) s u := .of_hostCall hfault hctl (hcs c (.head cs)) hu
    have hrest : WaitFrame (cs.count .tick) u t :=
      ih (hfirst.fault_eq.trans hfault) (hfirst.ctl_eq.trans hctl) (fun d hd => hcs d (.tail c hd)) hrun
    simpa [List.count_cons, Nat.add_comm] using hfirst.trans hrest

/-! ### The statements -/

/-- Settles O12: the run of a word without a pressed key is a WaitFrame; a wait on register 15 resolves like any other. -/
theorem keyWaitMakesNoProgress : Obligations.KeyWaitMakesNoProgress := by
  refine ⟨fun s t x cs hfault hctl hcs hrun => ?_, fun s keyIn rnd k hfault hctl hk hpressed hlowest => ?_⟩
  · have hwait : WaitFrame (cs.count .tick) s t := .of_runCalls hfault hctl hcs hrun
    exact ⟨hwait.ctl_eq.trans hctl, by rw [hwait.rest], fun r => by rw [hwait.rest]; rfl,
      fun a => by rw [hwait.rest]; rfl, hwait.delay, hwait.sound, hwait.rest⟩
  · refine ⟨_, stepCall_of_lowest_key hfault hctl hk hpressed hlowest rnd, ?_⟩
    have hvf : ((s.beginStep keyIn rnd).setV 15 (BitVec.ofNat 8 k)).v 15 = BitVec.ofNat 8 k :=
      (State.v_setV _ _ _ _).trans (if_pos rfl)
    exact (congrArg BitVec.toNat hvf).trans (Nat.mod_eq_of_lt (by omega))

/-- Settles O48: the index check passes exactly below 16, and then each skip asks for the one key. -/
theorem keySkipsReadTheSnapshot : Obligations.KeySkipsReadTheSnapshot :=
  ⟨wordsDecode_of_nnField (o := 0xE) (nn := 0x9E) fun p op hop hnn => by simp [decode, decodeKey, hop, hnn],
    wordsDecode_of_nnField (o := 0xE) (nn := 0xA1) fun p op hop hnn => by simp [decode, decodeKey, hop, hnn],
    fun _ _ => ⟨fun hlt => ⟨exec_skp_of_lt hlt, exec_sknp_of_lt hlt⟩,
      fun hge => ⟨⟨_, exec_skp_of_ge hge, rfl⟩, ⟨_, exec_sknp_of_ge hge, rfl⟩⟩⟩⟩

/-- Settles O49: the entry is one equation of exec, in which the snapshot does not occur. -/
theorem keyWaitIsEnteredWithPcHeld : Obligations.KeyWaitIsEnteredWithPcHeld :=
  ⟨wordsDecode_of_nnField (o := 0xF) (nn := 0x0A) fun p op hop hnn => by simp [decode, decodeMisc, hop, hnn],
    fun x s => ⟨_, exec_ldVxK x s, rfl, rfl, fun _ => rfl, fun _ => rfl, rfl⟩⟩

end Sys2Proof.Machine
end

section
/-! SUPPORT. The fetch checks as CanFetch, what an instruction and a step do to the timers, LD B out of range; and the
statements of 44_timer_io.md. -/

namespace Sys2Proof.Machine

/-! ### What an instruction does to the timers -/

/-- From `s` to `t`: both timers stay as they are. -/
structure TimersKept (s t : State) : Prop where
  delay : t.DT = s.DT
  sound : t.ST = s.ST

/-- From `s` to `t`: a timer stays as it is, or `i` is its load and leaves Vx in it (rules R231 to R233). -/
structure TimersFollow (i : Instr) (s t : State) : Prop where
  delay : t.DT = s.DT ∨ ∃ x, i = .ldDtVx x ∧ t.DT = s.v x
  sound : t.ST = s.ST ∨ ∃ x, i = .ldStVx x ∧ t.ST = s.v x

theorem TimersKept.follow {i : Instr} {s t : State} (h : TimersKept s t) : TimersFollow i s t :=
  ⟨.inl h.delay, .inl h.sound⟩

@[simp] theorem State.scroll_DT (s : State) (f : Nat → Nat → Framebuffer → Framebuffer) : (s.scroll f).DT = s.DT := by
  rw [State.scroll_eq]

@[simp] theorem State.scroll_ST (s : State) (f : Nat → Nat → Framebuffer → Framebuffer) : (s.scroll f).ST = s.ST := by
  rw [State.scroll_eq]

@[simp] theorem State.modeSwitch_DT (s : State) : s.modeSwitch.DT = s.DT := by rw [State.modeSwitch_eq]

@[simp] theorem State.modeSwitch_ST (s : State) : s.modeSwitch.ST = s.ST := by rw [State.modeSwitch_eq]

/-- The end of an instruction moves pc alone (rule R101). -/
theorem TimersKept.of_finish {s t u : State} {d : Disposition} (h : u.finish d = .next t) (hu : TimersKept s u) :
    TimersKept s t := by
  cases h
  exact ⟨hu.delay, hu.sound⟩

/-- Neither the fault of a guard nor, if it keeps the timers, the effect behind it moves them (rule R272). -/
theorem TimersKept.of_guarded {f : Option Fault} {s t : State} {effect : State → Result}
    (h : guarded f s effect = .next t) (heffect : effect s = .next t → TimersKept s t) : TimersKept s t := by
  obtain ⟨r, -, rfl⟩ | ⟨-, ht⟩ := guarded_cases h
  · exact ⟨rfl, rfl⟩
  · exact heffect ht

/-- An instruction moves no timer but the one that it loads (rules R231 to R233). -/
theorem TimersFollow.of_exec {i : Instr} {s t : State} (h : exec i s = .next t) : TimersFollow i s t := by
  cases i with
  | ldDtVx x => cases h; exact ⟨.inr ⟨x, rfl, rfl⟩, .inl rfl⟩
  | ldStVx x => cases h; exact ⟨.inl rfl, .inr ⟨x, rfl, rfl⟩⟩
  | scd | scr | scl | low | high | add | sub | subn | shr | shl =>
    exact (TimersKept.of_finish h ⟨by simp, by simp⟩).follow
  | call | ret | addImm | addI =>
    simp only [exec, execCall, execRet, execAddImm, execAddI] at h
    split at h <;> cases h <;> exact ⟨.inl rfl, .inl rfl⟩
  | drw x y n =>
    simp only [exec, execDrw] at h
    split at h
    · exact (TimersKept.of_finish h ⟨rfl, rfl⟩).follow
    · exact (TimersKept.of_guarded h fun h => .of_finish h ⟨rfl, rfl⟩).follow
  | skp | sknp =>
    simp only [exec, execSkp, execSknp] at h
    exact (TimersKept.of_guarded h fun h => .of_finish h ⟨rfl, rfl⟩).follow
  | ldB | store | load | storeR | loadR =>
    simp only [exec, execLdB, execStore, execLoad, execStoreR, execLoadR] at h
    exact (TimersKept.of_guarded h fun h => .of_finish h ⟨by simp, by simp⟩).follow
  | _ => cases h; exact ⟨.inl rfl, .inl rfl⟩

/-! ### What a step does to the timers -/

/-- What passes the fetch checks can be fetched (rules R55, R59). -/
theorem State.canFetch_of_fetchFault_eq_none {s : State} (h : s.fetchFault = none) : s.CanFetch := by
  have hlast := State.fetch_pc_le h
  simp only [State.fetchFault, ite_eq_iff, reduceCtorEq, and_false, false_or] at h
  obtain ⟨hodd, hlow, -⟩ := h
  exact ⟨hlast, fun hcheck => Nat.mod_two_ne_one.mp fun h => hodd ⟨hcheck, h⟩,
    fun hcheck => Nat.le_of_not_lt fun h => hlow ⟨hcheck, h⟩⟩

theorem State.resolveKey_timersKept (s : State) (x : Reg) : TimersKept s (s.resolveKey x) :=
  ⟨by rw [State.resolveKey_eq], by rw [State.resolveKey_eq]⟩

/-- A step keeps the timers, or runs the instruction at pc, which moves no timer but the one that it loads (rule R233). -/
theorem stepCall_timers {keyIn : BitVec 16} {rnd : Byte} {s t : State} (h : stepCall keyIn rnd s = .next t) :
    TimersKept s t ∨
      ∃ i, s.Ready ∧ s.CanFetch ∧ decode s.params s.wordAtPc = .instr i ∧ TimersFollow i s t := by
  obtain ⟨r, -, rfl⟩ | ⟨x, -, -, rfl⟩ | ⟨r, -, -, rfl⟩ | ⟨op, -, -, -, hunknown⟩ | ⟨i, hready, hfetch, hi, hexec⟩ :=
    stepCall_cases h
  · exact .inl ⟨rfl, rfl⟩
  · obtain ⟨hdelay, hsound⟩ := (s.beginStep keyIn rnd).resolveKey_timersKept x
    exact .inl ⟨hdelay, hsound⟩
  · exact .inl ⟨rfl, rfl⟩
  · exact .inl (.of_finish hunknown ⟨rfl, rfl⟩)
  · obtain ⟨hdelay, hsound⟩ := TimersFollow.of_exec hexec
    exact .inr ⟨i, hready, State.canFetch_of_fetchFault_eq_none (s := s) hfetch, hi, hdelay, hsound⟩

/-! ### LD B outside memory -/

/-- LD B, Vx whose three digits would pass the end of memory (rule R243). -/
theorem exec_ldB_of_gt {s : State} {x : Reg} (h : 0xFFF < s.I.toNat + 2) :
    exec (.ldB x) s = .next (s.takeFault (.memoryOutOfRange (max s.I.toNat 0x1000))) := by
  have hrange : rangeFault s.I 3 = some (.memoryOutOfRange (max s.I.toNat 0x1000)) := rangeFault_of_gt (by omega)
  simp only [exec, execLdB, hrange, guarded_some]

/-! ### The statements -/

/-- Settles O14: of the calls in question only a step can move a timer, and then by the timer's load at pc. -/
theorem stepMovesTimersOnlyByTheirWrites : Obligations.StepMovesTimersOnlyByTheirWrites := by
  intro c s t hcall htick hreset
  cases c with
  | tick => exact absurd rfl htick
  | reset image => exact absurd rfl (hreset image)
  | clearDirty => cases hcall; exact ⟨.inl rfl, .inl rfl⟩
  | step keyIn rnd =>
    obtain hkept | ⟨i, hready, hfetch, hi, hdelay, hsound⟩ := stepCall_timers hcall
    · exact ⟨.inl hkept.delay, .inl hkept.sound⟩
    · exact ⟨hdelay.imp_right fun ⟨x, hx, hDT⟩ => ⟨x, hready, hfetch, hx ▸ hi, hDT⟩,
        hsound.imp_right fun ⟨x, hx, hST⟩ => ⟨x, hready, hfetch, hx ▸ hi, hST⟩⟩

/-- Settles O53: the bytes at I are the digits by powers of ten, of which the hundreds of a byte are below 10. -/
theorem decimalDigitsAreStored : Obligations.DecimalDigitsAreStored := by
  refine ⟨wordsDecode_of_nnField (o := 0xF) (nn := 0x33) fun p op hop hnn => by simp [decode, decodeMisc, hop, hnn],
    fun x s hwf => ⟨fun hle => ?_, fun hgt => ⟨_, exec_ldB_of_gt hgt, rfl⟩⟩⟩
  have hexec := exec_ldB_of_le (x := x) hle
  have hdigit := readByte_of_exec_ldB hwf hle hexec
  have hhundreds : (s.v x).toNat / 100 % 10 = (s.v x).toNat / 100 := by have := (s.v x).isLt; omega
  exact ⟨_, hexec, (hdigit 0).trans hhundreds, hdigit 1, (hdigit 2).trans (by simp), State.writeBytes_I .., rfl,
    .of_writeBytes s _ (digitsOf (s.v x)) _ _⟩

/-- Settles O50: the read is one write of a register, and each load one equation of exec. -/
theorem timerTransfersMoveOneByte : Obligations.TimerTransfersMoveOneByte :=
  ⟨wordsDecode_of_nnField (o := 0xF) (nn := 0x07) fun p op hop hnn => by simp [decode, decodeMisc, hop, hnn],
    wordsDecode_of_nnField (o := 0xF) (nn := 0x15) fun p op hop hnn => by simp [decode, decodeMisc, hop, hnn],
    wordsDecode_of_nnField (o := 0xF) (nn := 0x18) fun p op hop hnn => by simp [decode, decodeMisc, hop, hnn],
    fun _ _ => ⟨exec_of_setV rfl, rfl, rfl⟩⟩

end Sys2Proof.Machine
end

section
/-! SUPPORT. The frame as a table of pixels; and the last statement of 60_exceptions.md. -/

namespace Sys2Proof.Machine

/-! ### The frame (rule R283) -/

theorem State.length_frame (s : State) : s.frame.length = activeHeight s.ext := by
  simp [State.frame]

theorem State.length_of_mem_frame {s : State} {row : List Bool} (h : row ∈ s.frame) :
    row.length = activeWidth s.ext := by
  obtain ⟨y, -, rfl⟩ := List.mem_map.mp h
  simp

/-- Row y, column x of the frame is the cell of the framebuffer at y and x. -/
theorem State.getElem?_frame {s : State} {y x : Nat} (hy : y < activeHeight s.ext) (hx : x < activeWidth s.ext) :
    (s.frame[y]?.bind fun row => row[x]?) = some (Framebuffer.pixel s.fb y x) := by
  simp [State.frame, hy, hx]

/-! ### The sound (rule R284) -/

theorem State.soundOn_iff (s : State) : s.soundOn = true ↔ s.ST.toNat ≠ 0 := by
  rw [State.soundOn, decide_eq_true_iff, ← BitVec.toNat_ne_iff_ne]
  rfl

/-! ### The statement -/

/-- Settles O13: the tick counts both timers down, and the frame is the table of the active window's pixels. -/
theorem hostOperationsTickAndObserve : Obligations.HostOperationsTickAndObserve := fun s =>
  ⟨⟨s.tick, rfl, toNat_countDown s.DT, toNat_countDown s.ST, rfl⟩, rfl, rfl, s.soundOn_iff, s.length_frame,
    fun _ => State.length_of_mem_frame, fun _ _ => State.getElem?_frame⟩

end Sys2Proof.Machine
end

section
/-! SUPPORT. Decoding and encoding as each other's inverse, row by row of the opcode table; what the decoding parameters
change; and the remaining statements of 30_encoding.md. -/

namespace Sys2Proof

/-! ### The decoder on encoded words -/

/-- The words of family 0 that the encoder writes have x = 0, so they pass its check of x (rule R77). -/
theorem decode_encodeX_zero (p : Params) (nn : Byte) : decode p (encodeX 0x0 0 nn) = decodeZero p (encodeX 0x0 0 nn) := by
  simp [decode]

/-- SCD's words are no other row's: the dispatch of family 0 names no low byte with y = C (rule R77). -/
theorem decodeZero_of_yField {op : Word} (hy : yField op = 0xC) (p : Params) :
    decodeZero p op = .instr (.scd (nField op)) := by
  have hC := (yField_eq_C_iff op).mp hy
  unfold decodeZero
  split
  case h_8 => rw [if_pos hy]
  all_goals omega

/-! ### The rows of decoded words -/

theorem nibble_and_mask (compared : Bool) (x : Fin 16) :
    nibble x &&& nibble (if compared then 15 else 0) = nibble (if compared then x else 0) := by
  cases compared
  · exact BitVec.and_zero
  · exact BitVec.and_allOnes

/-- A mask of whole nibbles below the primary opcode keeps those that it compares and clears the others. -/
theorem and_nibbleMask (op : Word) (cx cy cn : Bool) :
    op &&& encodeXY (BitVec.allOnes 4) (if cx then 15 else 0) (if cy then 15 else 0) (if cn then 15 else 0) =
      encodeXY (opField op) (if cx then xField op else 0) (if cy then yField op else 0)
        (if cn then nField op else 0) := by
  conv_lhs => rw [← encodeXY_fields op, encodeXY_and, nibble_and_mask, nibble_and_mask, nibble_and_mask,
    BitVec.and_allOnes]
  rfl

open Laws.EncodeMatchesTable in
/-- The encoded word has its row's match under its row's mask. -/
theorem encode_and_opcodeMask (i : Instr) : encode i &&& opcodeMask i = opcodeMatch i :=
  match i with
  | .cls => cls | .ret => ret | .scd n => scd n | .scr => scr | .scl => scl | .exit => exit | .low => low | .high => high
  | .jp a => jp a | .call a => call a | .ldI a => ldI a | .jpV0 a => jpV0 a
  | .seImm x nn => seImm x nn | .sneImm x nn => sneImm x nn | .ldImm x nn => ldImm x nn | .addImm x nn => addImm x nn
  | .rnd x nn => rnd x nn | .seReg x y => seReg x y | .sneReg x y => sneReg x y | .drw x y n => drw x y n
  | .mov x y => mov x y | .or x y => or x y | .and x y => and x y | .xor x y => xor x y | .add x y => add x y
  | .sub x y => sub x y | .shr x => shr x | .subn x y => subn x y | .shl x => shl x | .skp x => skp x | .sknp x => sknp x
  | .ldVxDt x => ldVxDt x | .ldVxK x => ldVxK x | .ldDtVx x => ldDtVx x | .ldStVx x => ldStVx x | .addI x => addI x
  | .ldF x => ldF x | .ldHF x => ldHF x | .ldB x => ldB x | .store x => store x | .load x => load x
  | .storeR x => storeR x | .loadR x => loadR x

/-- A row compares none of the bits that it ignores. -/
theorem not_ignoredBits_and_opcodeMask (i : Instr) : ~~~ ignoredBits i &&& opcodeMask i = opcodeMask i := by
  cases i <;> simp only [ignoredBits, opcodeMask] <;> decide

/-- What a decoded word has of the instruction's row: the instruction exists, and the word is the encoded one but for the
bits that the row ignores. -/
structure RowOf (p : Params) (op : Word) (i : Instr) : Prop where
  wellFormed : WellFormed p i = true
  encoded    : op &&& ~~~ ignoredBits i = encode i

theorem RowOf.and_opcodeMask {p : Params} {op : Word} {i : Instr} (h : RowOf p op i) :
    op &&& opcodeMask i = opcodeMatch i :=
  calc
    op &&& opcodeMask i = op &&& ~~~ ignoredBits i &&& opcodeMask i := by
      rw [BitVec.and_assoc, not_ignoredBits_and_opcodeMask]
    _ = encode i &&& opcodeMask i := by rw [h.encoded]
    _ = opcodeMatch i := encode_and_opcodeMask i

/-- A row that ignores no bit. -/
theorem RowOf.of_eq {p : Params} {op : Word} {i : Instr} (hwf : WellFormed p i = true) (hignored : ignoredBits i = 0)
    (h : op = encode i) : RowOf p op i :=
  ⟨hwf, by rw [hignored]; exact BitVec.and_allOnes.trans h⟩

section
variable {p : Params} {op : Word} {i : Instr}

theorem RowOf.of_decodeZero (ho : opField op = 0x0) (h : decodeZero p op = .instr i) : RowOf p op i := by
  have hmask : op &&& ~~~ 0x0F00 = encodeX 0x0 0 (nnField op) := (and_F0FF op).trans (by rw [ho])
  have hword (nn : Byte) (hnn : (nnField op).toNat = nn.toNat) : op &&& ~~~ 0x0F00 = encodeX 0x0 0 nn := by
    rw [hmask, BitVec.eq_of_toNat_eq hnn]
  unfold decodeZero at h
  split at h
  case h_5 hnn =>
    split at h
    · cases h
    · cases h
      have hexit : p.exitMode = .fault := by cases hmode : p.exitMode <;> trivial
      exact ⟨decide_eq_true hexit, hword _ hnn⟩
  case h_8 =>
    split at h
    case isTrue hy =>
      cases h
      exact ⟨rfl, hmask.trans (by rw [nnField_eq, hy, encode, encodeXY_eq])⟩
    case isFalse => cases h
  all_goals
    cases h
    exact ⟨rfl, hword _ ‹_›⟩

theorem RowOf.of_decodeAlu (ho : opField op = 0x8) (h : decodeAlu op = .instr i) : RowOf p op i := by
  have hword (n : Fin 16) (hn : (nField op).val = n.val) : op = encodeXY 0x8 (xField op) (yField op) n := by
    conv_lhs => rw [← encodeXY_fields op, ho, Fin.ext hn]
  have hshift (n : Fin 16) (hn : (nField op).val = n.val) : op &&& ~~~ 0x00F0 = encodeXY 0x8 (xField op) 0 n :=
    (and_nibbleMask op true false true).trans (by rw [ho, Fin.ext hn]; rfl)
  unfold decodeAlu at h
  split at h <;> cases h
  case h_7 hn => exact ⟨rfl, hshift _ hn⟩
  case h_9 hn => exact ⟨rfl, hshift _ hn⟩
  all_goals exact .of_eq rfl rfl (hword _ ‹_›)

theorem encodeX_of_nnField {o : BitVec 4} (ho : opField op = o) (nn : Byte) (hnn : (nnField op).toNat = nn.toNat) :
    op = encodeX o (xField op) nn := by
  conv_lhs => rw [← encodeX_fields op, ho, BitVec.eq_of_toNat_eq hnn]

theorem RowOf.of_decodeKey (ho : opField op = 0xE) (h : decodeKey op = .instr i) : RowOf p op i := by
  unfold decodeKey at h
  split at h <;> cases h
  all_goals exact .of_eq rfl rfl (encodeX_of_nnField ho _ ‹_›)

theorem RowOf.of_decodeMisc (ho : opField op = 0xF) (h : decodeMisc op = .instr i) : RowOf p op i := by
  unfold decodeMisc at h
  split at h <;> cases h
  all_goals exact .of_eq rfl rfl (encodeX_of_nnField ho _ ‹_›)

/-- Families 5 and 9, which ignore n or compare it with 0 (rule R80). -/
theorem RowOf.of_skipReg {o : BitVec 4} (ho : opField op = o) (hwf : WellFormed p i = true)
    (hignored : ignoredBits i = 0x000F) (hencode : encode i = encodeXY o (xField op) (yField op) 0) : RowOf p op i :=
  ⟨hwf, by rw [hignored, hencode, ← ho]; exact and_nibbleMask op true true false⟩

/-- Every word that decodes is of the row of what it decodes to. -/
theorem RowOf.of_decode (h : decode p op = .instr i) : RowOf p op i := by
  have hA (o : BitVec 4) (ho : (opField op).toNat = o.toNat) : op = encodeA o (nnnField op) := by
    conv_lhs => rw [← encodeA_fields op, BitVec.eq_of_toNat_eq ho]
  have hX (o : BitVec 4) (ho : (opField op).toNat = o.toNat) : op = encodeX o (xField op) (nnField op) := by
    conv_lhs => rw [← encodeX_fields op, BitVec.eq_of_toNat_eq ho]
  have hXY (o : BitVec 4) (ho : (opField op).toNat = o.toNat) :
      op = encodeXY o (xField op) (yField op) (nField op) := by
    conv_lhs => rw [← encodeXY_fields op, BitVec.eq_of_toNat_eq ho]
  unfold decode at h
  split at h
  case h_1 ho =>
    split at h
    · cases h
    · exact .of_decodeZero (BitVec.eq_of_toNat_eq ho) h
  case h_6 ho =>
    split at h <;> cases h
    exact .of_skipReg (o := 0x5) (BitVec.eq_of_toNat_eq ho) rfl rfl rfl
  case h_10 ho =>
    split at h <;> cases h
    exact .of_skipReg (o := 0x9) (BitVec.eq_of_toNat_eq ho) rfl rfl rfl
  case h_9 ho => exact .of_decodeAlu (BitVec.eq_of_toNat_eq ho) h
  case h_15 ho => exact .of_decodeKey (BitVec.eq_of_toNat_eq ho) h
  case h_16 =>
    have hlt := (opField op).isLt
    have ho : (opField op).toNat = 0xF := by simp only [imp_false] at *; omega
    exact .of_decodeMisc (BitVec.eq_of_toNat_eq ho) h
  case h_14 ho => cases h; exact .of_eq rfl rfl (hXY _ ho)
  case h_2 ho | h_3 ho | h_11 ho | h_12 ho => cases h; exact .of_eq rfl rfl (hA _ ho)
  all_goals
    cases h
    exact .of_eq rfl rfl (hX _ ‹_›)

end

namespace Machine

/-- Settles O1: each row's encoded word has the fields that its family dispatches on. -/
theorem decodeOfEncodeIsInstruction : Obligations.DecodeOfEncodeIsInstruction := by
  intro p i hwf
  cases i with
  | exit =>
    have hexit : p.exitMode = .fault := of_decide_eq_true hwf
    rw [encode, decode_encodeX_zero]
    simp [decodeZero, hexit]
  | scd n =>
    have hzero : decode p (encodeXY 0x0 0 0xC n) = decodeZero p (encodeXY 0x0 0 0xC n) := decode_encodeX_zero p _
    rw [encode, hzero, decodeZero_of_yField (yField_encodeXY ..), nField_encodeXY]
  | cls | ret | scr | scl | low | high =>
    rw [encode, decode_encodeX_zero]
    simp [decodeZero]
  | mov | or | and | xor | add | sub | shr | subn | shl => simp [encode, decode, decodeAlu]
  | skp | sknp => simp [encode, decode, decodeKey]
  | ldVxDt | ldVxK | ldDtVx | ldStVx | addI | ldF | ldHF | ldB | store | load | storeR | loadR =>
    simp [encode, decode, decodeMisc]
  | _ => simp [encode, decode]

/-- Settles O2: a decoded word is of the row of what it decodes to. -/
theorem decodedWordIsEncodedUpToIgnoredBits : Obligations.DecodedWordIsEncodedUpToIgnoredBits := fun _ _ _ h =>
  have hrow := RowOf.of_decode h
  ⟨hrow.wellFormed, hrow.and_opcodeMask, hrow.encoded⟩

/-- Family 0 without its check of x reads the low byte alone (rule R77). -/
theorem decodeZero_congr {p : Params} {op op' : Word} {i : Instr} (hnn : nnField op' = nnField op)
    (h : decodeZero p op = .instr i) : decodeZero p op' = .instr i := by
  rw [← h]
  unfold decodeZero at h ⊢
  rw [yField_eq op', nField_eq op', hnn, ← yField_eq, ← nField_eq]
  split
  case h_5 | h_8 => grind
  all_goals rfl

/-- Settles O4: the check of the ignored nibble stands before each family's dispatch, and EXIT's inside family 0. -/
theorem strictParametersMakeWordsUnknown : Obligations.StrictParametersMakeWordsUnknown := by
  intro p op
  refine ⟨fun ho hstrict hx => ?_, fun ho hstrict op' ho' hnn i hi => ?_, fun ho hexit hnn => ?_, fun ho => ?_, fun ho => ?_⟩
  · exact (decode_eq_unknown_iff p op).mpr (.inl ⟨ho, .inl ⟨hstrict, hx⟩⟩)
  · have hzero (w : Word) (hw : opField w = 0x0) : decode p w = decodeZero p w := by simp [decode, hw, hstrict]
    rw [hzero _ ho] at hi
    rw [hzero _ ho']
    exact decodeZero_congr hnn hi
  · exact (decode_eq_unknown_iff p op).mpr (.inl ⟨ho, .inr ((decodeZero_eq_unknown_iff p op).mpr (.inl ⟨hnn, hexit⟩))⟩)
  · simp only [decode, ho]; rfl
  · simp only [decode, ho]; rfl

/-- Settles O5: each word decodes by evaluation. -/
theorem sampleWordsDecode : Obligations.SampleWordsDecode := by
  unfold Obligations.SampleWordsDecode
  decide

end Machine

end Sys2Proof
end

section
/-! SUPPORT. What an instruction may change, field by field, said once for all instructions; the faults that an instruction
and a fetch may raise, and what they say of the state; where an instruction leaves pc. The statements of the whole machine
that rest on them: the writers of each component, precise and explained faults, the dirty flag, the invariant of a step. -/

namespace Sys2Proof.Machine

/-! ### The writers of each component -/

/-- From `s` to `t`: the fields that only some instructions write stay as they are, unless `i` is one of those. -/
structure WritersFrame (i : Instr) (s t : State) : Prop where
  mem       : (∀ x, i ≠ .ldB x ∧ i ≠ .store x) → t.mem = s.mem
  stack     : (∀ a, i ≠ .call a) → t.stack = s.stack
  sp        : (∀ a, i ≠ .call a) → i ≠ .ret → t.sp = s.sp
  aux       : (∀ x, i ≠ .storeR x) → t.aux = s.aux
  ext       : i ≠ .low → i ≠ .high → t.ext = s.ext
  ctl       : (∀ x, i ≠ .ldVxK x) → t.ctl = s.ctl
  index     : (∀ a x, i ≠ .ldI a ∧ i ≠ .addI x ∧ i ≠ .ldF x ∧ i ≠ .ldHF x) →
    (∀ x, (i = .store x ∨ i = .load x) → s.params.loadStoreIncrementsI = false) → t.I = s.I
  fb        : ¬ writesFramebuffer i → t.fb = s.fb
  registers : ∀ r, ¬ writesRegister s.params i r → t.v r = s.v r
  delay     : (∀ x, i ≠ .ldDtVx x) → t.DT = s.DT
  sound     : (∀ x, i ≠ .ldStVx x) → t.ST = s.ST
  dirty     : ¬ setsDirty s i → t.dirty = s.dirty
  fault     : ¬ mayRaise i → t.fault = s.fault
  keys      : t.keys = s.keys
  params    : t.params = s.params

section
variable {i : Instr} {s t u : State}

theorem WritersFrame.refl (i : Instr) (s : State) : WritersFrame i s s where
  mem _ := rfl
  stack _ := rfl
  sp _ _ := rfl
  aux _ := rfl
  ext _ _ := rfl
  ctl _ := rfl
  index _ _ := rfl
  fb _ := rfl
  registers _ _ := rfl
  delay _ := rfl
  sound _ := rfl
  dirty _ := rfl
  fault _ := rfl
  keys := rfl
  params := rfl

/-- The end of an instruction moves pc alone (rule R101). -/
theorem WritersFrame.of_finish {d : Disposition} (h : u.finish d = .next t) (hu : WritersFrame i s u) :
    WritersFrame i s t := by
  cases h
  exact { hu with }

/-- A fault changes the latch and the report alone (rule R272). -/
theorem WritersFrame.of_takeFault (hraise : mayRaise i) (s : State) (r : Fault) : WritersFrame i s (s.takeFault r) :=
  { WritersFrame.refl i s with fault := fun h => absurd hraise h }

theorem WritersFrame.of_raise {r : Fault} (hraise : mayRaise i) (h : raise r s = .next t) : WritersFrame i s t := by
  cases h
  exact of_takeFault hraise s r

theorem WritersFrame.of_guarded {f : Option Fault} {effect : State → Result} (hraise : mayRaise i)
    (h : guarded f s effect = .next t) (heffect : effect s = .next t → WritersFrame i s t) : WritersFrame i s t := by
  obtain ⟨r, -, rfl⟩ | ⟨-, ht⟩ := guarded_cases h
  · exact .of_takeFault hraise s r
  · exact heffect ht

theorem WritersFrame.of_setV {x : Reg} {b : Byte} (hx : writesRegister s.params i x) : WritersFrame i s (s.setV x b) :=
  { WritersFrame.refl i s with
    registers := fun r hr => (State.v_setV s x b r).trans (if_neg (by rintro rfl; exact hr hx)) }

theorem WritersFrame.of_writeRF {x : Reg} {r f : Byte} (hw : ∀ r, writesRegister s.params i r ↔ r = x ∨ r = vf) :
    WritersFrame i s (s.writeRF x r f) := by
  have hV (q : Reg) (hq : ¬ writesRegister s.params i q) : (s.writeRF x r f).v q = s.v q := by
    obtain ⟨hx, hvf⟩ := not_or.mp ((hw q).not.mp hq)
    exact s.v_writeRF_other r f hx hvf
  rw [State.writeRF_eq] at hV ⊢
  generalize (s.writeRF x r f).V = V, (s.writeRF x r f).draws = draws at hV ⊢
  exact { WritersFrame.refl i s with registers := hV }

theorem WritersFrame.of_loadUpTo {x : Reg} {f : Nat → Byte} (hw : ∀ r, writesRegister s.params i r ↔ r.val ≤ x.val) :
    WritersFrame i s (s.loadUpTo x f) := by
  have hV (r : Reg) (hr : ¬ writesRegister s.params i r) : (s.loadUpTo x f).v r = s.v r :=
    (s.v_loadUpTo x f r).trans (if_neg ((hw r).not.mp hr))
  rw [State.loadUpTo_eq] at hV ⊢
  generalize (s.loadUpTo x f).V = V at hV ⊢
  exact { WritersFrame.refl i s with registers := hV }

/-- The index register after a block transfer (rules R238, R239). -/
theorem WritersFrame.of_blockIncrement {x : Reg} (hi : i = .store x ∨ i = .load x) (hparams : u.params = s.params)
    (hu : WritersFrame i s u) : WritersFrame i s (u.blockIncrement x) := by
  rw [State.blockIncrement_eq]
  exact { hu with
    index := fun h h' => (if_neg (by rw [hparams, h' x hi]; exact Bool.false_ne_true)).trans (hu.index h h') }

theorem WritersFrame.of_writeBytes {x : Reg} {a : Nat} {bs : List Byte} (hi : i = .ldB x ∨ i = .store x) :
    WritersFrame i s (s.writeBytes a bs) := by
  rw [State.writeBytes_eq]
  exact { WritersFrame.refl i s with mem := fun h => absurd hi (not_or.mpr (h x)) }

/-- A scroll sets the dirty flag unless it is the no-op of base mode (rules R178, R183). -/
theorem WritersFrame.of_scroll {f : Nat → Nat → Framebuffer → Framebuffer} (hfb : writesFramebuffer i)
    (hdirty : ¬ setsDirty s i → s.ext = false ∧ s.params.baseModeScroll = .noop) : WritersFrame i s (s.scroll f) := by
  have hnoop (h : ¬ setsDirty s i) : (s.scroll f).dirty = s.dirty := by
    rw [State.scroll_noop (hdirty h).1 (hdirty h).2]
  rw [State.scroll_eq] at hnoop ⊢
  exact { WritersFrame.refl i s with fb := fun h => absurd hfb h, dirty := hnoop }

theorem WritersFrame.of_modeSwitch {ext : Bool} (hi : i = .low ∨ i = .high) :
    WritersFrame i s ({ s with ext := ext }).modeSwitch := by
  rw [State.modeSwitch_eq]
  refine { WritersFrame.refl i s with
    ext := fun hlow hhigh => absurd hi (not_or.mpr ⟨hlow, hhigh⟩), fb := fun h => ?_, dirty := fun h => ?_ }
  all_goals rcases hi with rfl | rfl <;> exact absurd trivial h

/-- An instruction changes no component but those that it is a writer of. -/
theorem WritersFrame.of_exec (h : exec i s = .next t) : WritersFrame i s t := by
  cases i with
  | cls => exact .of_finish h { refl _ s with fb := fun h => absurd trivial h, dirty := fun h => absurd trivial h }
  | ret =>
    simp only [exec, execRet] at h
    split at h
    · exact .of_finish h { refl .ret s with sp := fun _ h => absurd rfl h }
    · exact .of_raise trivial h
  | call a =>
    simp only [exec, execCall] at h
    split at h
    · exact .of_finish h { refl (.call a) s with stack := fun h => absurd rfl (h a), sp := fun h => absurd rfl (h a) }
    · exact .of_raise trivial h
  | scd | scr | scl =>
    simp only [exec, execScd, execScr, execScl] at h
    exact .of_finish h (.of_scroll trivial not_not.mp)
  | low => exact .of_finish h (.of_modeSwitch (.inl rfl))
  | high => exact .of_finish h (.of_modeSwitch (.inr rfl))
  | exit => exact .of_raise trivial h
  | jp | jpV0 | seImm | sneImm | seReg | sneReg => exact .of_finish h (refl _ s)
  | ldImm | mov | or | and | xor | rnd | ldVxDt =>
    simp only [exec, execLdImm, execMov, execOr, execAnd, execXor, execRnd, execLdVxDt] at h
    exact .of_finish h (.of_setV rfl)
  | addImm x nn =>
    simp only [exec, execAddImm] at h
    split at h
    · exact .of_finish h (refl _ s)
    case isFalse hquirk => exact .of_finish h (.of_setV ⟨rfl, hquirk⟩)
  | add | sub | shr | subn | shl =>
    simp only [exec, execAdd, execSub, execShr, execSubn, execShl] at h
    exact .of_finish h (.of_writeRF fun _ => .rfl)
  | drw x y n =>
    simp only [exec, execDrw] at h
    split at h
    · exact .of_finish h (refl _ s)
    case isFalse hdraws =>
      refine .of_guarded trivial h fun h => .of_finish h ?_
      exact { of_setV (i := .drw x y n) (s := s) (x := vf) rfl with
        fb := fun h => absurd trivial h, dirty := fun h => absurd hdraws h }
  | skp | sknp =>
    simp only [exec, execSkp, execSknp] at h
    exact .of_guarded trivial h fun h => .of_finish h (refl _ s)
  | ldVxK x => exact .of_finish h { refl (.ldVxK x) s with ctl := fun h => absurd rfl (h x) }
  | ldDtVx x => exact .of_finish h { refl (.ldDtVx x) s with delay := fun h => absurd rfl (h x) }
  | ldStVx x => exact .of_finish h { refl (.ldStVx x) s with sound := fun h => absurd rfl (h x) }
  | addI x =>
    simp only [exec, execAddI] at h
    split at h
    · exact .of_finish h (refl _ s)
    · exact .of_finish h { refl (.addI x) s with index := fun h => absurd rfl (h 0 x).2.1 }
  | ldI a => exact .of_finish h { refl (.ldI a) s with index := fun h => absurd rfl (h a 0).1 }
  | ldF x => exact .of_finish h { refl (.ldF x) s with index := fun h => absurd rfl (h 0 x).2.2.1 }
  | ldHF x => exact .of_finish h { refl (.ldHF x) s with index := fun h => absurd rfl (h 0 x).2.2.2 }
  | ldB x =>
    simp only [exec, execLdB] at h
    exact .of_guarded trivial h fun h => .of_finish h (.of_writeBytes (.inl rfl))
  | store x =>
    simp only [exec, execStore] at h
    exact .of_guarded trivial h fun h =>
      .of_finish h (.of_blockIncrement (.inl rfl) (s.writeBytes_params _ _) (.of_writeBytes (.inr rfl)))
  | load x =>
    simp only [exec, execLoad] at h
    exact .of_guarded trivial h fun h =>
      .of_finish h (.of_blockIncrement (.inr rfl) (s.loadUpTo_params _ _) (.of_loadUpTo fun _ => .rfl))
  | storeR x =>
    simp only [exec, execStoreR] at h
    exact .of_guarded trivial h fun h => .of_finish h { refl (.storeR x) s with aux := fun h => absurd rfl (h x) }
  | loadR x =>
    simp only [exec, execLoadR] at h
    exact .of_guarded trivial h fun h => .of_finish h (.of_loadUpTo fun _ => .rfl)

end

/-! ### The faults and what they say of the state -/

section
variable {s t : State} {r : Fault}

/-- The first address above 0xFFF of a range at I (rules R243, R271). -/
theorem State.explains_of_rangeFault {m : Nat} (h : rangeFault s.I m = some r) : s.Explains r := by
  unfold rangeFault at h
  split at h <;> cases h
  exact ⟨le_max_right _ _, .inr (.inr rfl)⟩

theorem State.explains_of_keyIndexFault {x : Reg} (h : keyIndexFault (s.v x) = some r) : s.Explains r := by
  unfold keyIndexFault at h
  split at h <;> cases h
  exact ⟨by assumption, x, rfl⟩

theorem State.explains_of_auxIndexFault {x : Reg} (h : auxIndexFault x = some r) : s.Explains r := by
  unfold auxIndexFault at h
  split at h <;> cases h
  assumption

theorem State.explains_of_drawFault {y : Reg} {n : Fin 16} (h : s.drawFault y n = some r) : s.Explains r := by
  unfold State.drawFault at h
  split at h
  case h_1 hrange => cases h; exact State.explains_of_rangeFault hrange
  case h_2 =>
    split at h <;> cases h
    case isTrue hrow =>
      obtain ⟨hext, hvertical, -⟩ := hrow
      exact ⟨hext, hvertical, y, rfl⟩

/-- The odd or low pc under its parameter, and the first address above 0xFFF of a fetch (rules R55, R59, R271). -/
theorem State.explains_of_fetchFault (h : s.fetchFault = some r) : s.Explains r := by
  unfold State.fetchFault lastAddress at h
  split at h
  case isTrue hodd => cases h; exact ⟨rfl, hodd.2, hodd.1⟩
  split at h
  case isTrue hlow => cases h; exact ⟨rfl, hlow.2, hlow.1⟩
  split at h
  case isTrue hhigh => cases h; exact ⟨hhigh, .inl rfl⟩
  split at h
  case isTrue hlast => cases h; exact ⟨hlast, .inr (.inl rfl)⟩
  case isFalse => cases h

/-- From `s` to `t`: the latch stays as it is, or the whole effect is a fault that the state explains; EXIT's is explained only
where its word decodes to it (rules R272, R276; log 13). -/
def KeepsLatchOrFaults (i : Instr) (s t : State) : Prop :=
  t.fault = s.fault ∨ ∃ r, t = s.takeFault r ∧ (WellFormed s.params i = true → s.Explains r)

theorem KeepsLatchOrFaults.of_guarded {i : Instr} {f : Option Fault} {effect : State → Result}
    (h : guarded f s effect = .next t) (hf : ∀ r, f = some r → s.Explains r)
    (heffect : effect s = .next t → t.fault = s.fault) : KeepsLatchOrFaults i s t := by
  obtain ⟨r, hr, rfl⟩ | ⟨-, ht⟩ := guarded_cases h
  · exact .inr ⟨r, rfl, fun _ => hf r hr⟩
  · exact .inl (heffect ht)

theorem KeepsLatchOrFaults.of_exec {i : Instr} (h : exec i s = .next t) : KeepsLatchOrFaults i s t := by
  cases i with
  | call a =>
    simp only [exec, execCall] at h
    split at h
    · cases h; exact .inl rfl
    · cases h
      have hlt := s.sp.isLt
      exact .inr ⟨_, rfl, fun _ => ⟨rfl, Fin.ext (by change s.sp.val = 16; omega)⟩⟩
  | ret =>
    simp only [exec, execRet] at h
    split at h
    · cases h; exact .inl rfl
    · cases h
      exact .inr ⟨_, rfl, fun _ => ⟨rfl, Fin.ext (by change s.sp.val = 0; omega)⟩⟩
  | exit => cases h; exact .inr ⟨_, rfl, fun hwf => ⟨rfl, of_decide_eq_true hwf⟩⟩
  | drw x y n =>
    simp only [exec, execDrw] at h
    split at h
    · cases h; exact .inl rfl
    · exact .of_guarded h (fun _ => State.explains_of_drawFault) fun h => by cases h; rfl
  | skp | sknp =>
    simp only [exec, execSkp, execSknp] at h
    exact .of_guarded h (fun _ => State.explains_of_keyIndexFault) fun h => by cases h; rfl
  | ldB | store | load =>
    simp only [exec, execLdB, execStore, execLoad] at h
    exact .of_guarded h (fun _ => State.explains_of_rangeFault) fun h => by cases h; simp
  | storeR | loadR =>
    simp only [exec, execStoreR, execLoadR] at h
    exact .of_guarded h (fun _ => State.explains_of_auxIndexFault) fun h => by cases h; simp
  | _ => exact .inl ((WritersFrame.of_exec h).fault id)

/-- What a step keeps, if every host call keeps it and it does not speak of the schedule and the draw counter. -/
theorem step_keeps {P : State → Prop} (hschedule : ∀ s cs n, P s → P { s with pending := cs, draws := n })
    (hcall : ∀ c s t, P s → hostCall c s = .next t → P t) (hs : P s) (h : step s = .next t) : P t := by
  rw [step_eq_hostCall] at h
  refine hcall _ _ t ?_ h
  cases hpending : s.pending with
  | nil => rw [State.nextCall_nil hpending]; exact hschedule s s.pending _ hs
  | cons c cs => rw [State.nextCall_cons hpending]; exact hschedule s cs s.draws hs

theorem State.LatchExplained.of_fault_eq_none (h : s.fault = none) : s.LatchExplained := by
  intro r hr
  rw [h] at hr
  cases hr

theorem State.LatchExplained.of_takeFault (hctl : s.ctl = .running) (hr : s.Explains r) :
    (s.takeFault r).LatchExplained := by
  rintro _ ⟨⟩
  exact ⟨hctl, hr⟩

theorem State.resolveKey_fault (s : State) (x : Reg) : (s.resolveKey x).fault = s.fault := by rw [State.resolveKey_eq]

theorem execUnknown_fault {op : Word} (h : execUnknown op s = .next t) : t.fault = s.fault := by cases h; rfl

/-- A step call keeps a latched fault as it was, or raises one that the state explains (rules R271, R272). -/
theorem State.LatchExplained.of_stepCall {keyIn : BitVec 16} {rnd : Byte} (hs : s.LatchExplained)
    (h : stepCall keyIn rnd s = .next t) : t.LatchExplained := by
  obtain ⟨r, -, rfl⟩ | ⟨x, hfault, -, rfl⟩ | ⟨r, hready, hr, rfl⟩ | ⟨op, hready, -, -, hunknown⟩ |
    ⟨i, hready, -, hi, hexec⟩ := stepCall_cases h
  · exact hs
  · exact .of_fault_eq_none ((State.resolveKey_fault _ x).trans hfault)
  · exact .of_takeFault hready.2 (State.explains_of_fetchFault hr)
  · exact .of_fault_eq_none ((execUnknown_fault hunknown).trans hready.1)
  · obtain hkept | ⟨r, rfl, hr⟩ := KeepsLatchOrFaults.of_exec hexec
    · exact .of_fault_eq_none (hkept.trans hready.1)
    · exact .of_takeFault hready.2 (hr (RowOf.of_decode hi).wellFormed)

theorem State.LatchExplained.of_hostCall {c : HostCall} (hs : s.LatchExplained) (h : hostCall c s = .next t) :
    t.LatchExplained := by
  cases c with
  | step keyIn rnd => exact hs.of_stepCall h
  | tick | clearDirty => cases h; exact hs
  | reset image =>
    obtain rfl : s.hostReset image = t := Host.Outcome.next.inj h
    by_cases hle : image.length ≤ 3584
    · exact .of_fault_eq_none (s.hostReset_fault hle)
    · rw [s.hostReset_of_gt (by omega)]
      exact hs

end

/-- Settles O20: of the host's calls only a step raises a fault, and what it raises the state explains. -/
theorem everyStepKeepsFaultsExplained : Obligations.EveryStepKeepsFaultsExplained := fun _ _ =>
  step_keeps (fun _ _ _ hs => hs) fun _ _ _ hs => hs.of_hostCall

/-- Settles O10: the fault of a fetch or of an instruction is the whole effect of the step. -/
theorem faultsArePrecise : Obligations.FaultsArePrecise := by
  intro s t keyIn rnd r hnone hstep hr
  have htake {r' : Fault} (ht : t = (s.beginStep keyIn rnd).takeFault r') :
      t = { s with keys := keyIn, rnd := rnd, fault := some r, report := .faulted r } := by
    subst ht
    cases hr
    rfl
  have hkept (ht : t.fault = s.fault) : t = { s with keys := keyIn, rnd := rnd, fault := some r, report := .faulted r } := by
    rw [ht, hnone] at hr
    cases hr
  obtain ⟨r', hr', -⟩ | ⟨x, -, -, ht⟩ | ⟨r', -, -, ht⟩ | ⟨op, -, -, -, hunknown⟩ | ⟨i, -, -, -, hexec⟩ :=
    stepCall_cases hstep
  · rw [hnone] at hr'
    cases hr'
  · exact hkept (by rw [ht, State.resolveKey_fault]; rfl)
  · exact htake ht
  · exact hkept (execUnknown_fault (s := s.beginStep keyIn rnd) hunknown)
  · obtain hfault | ⟨r', ht, -⟩ := KeepsLatchOrFaults.of_exec hexec
    · exact hkept hfault
    · exact htake ht

/-! ### Where an instruction leaves pc -/

/-- `t` is at `s`'s pc moved by some disposition of rule R101, whose target, for a jump, is an address of 12 bits with at
most a byte added to it, or a return address on the stack. -/
def Disposes (s t : State) : Prop :=
  ∃ d, t.pc = nextPc s.pc d ∧ ∀ a, d = .jump a → a.toNat ≤ 0x10FE ∨ ∃ k : Fin 16, a = s.stack[k]

section
variable {s t u : State}

theorem Disposes.hold (h : t.pc = s.pc) : Disposes s t := ⟨.hold, h, fun _ h => nomatch h⟩

theorem Disposes.of_advance (h : u.finish .advance = .next t) (hpc : u.pc = s.pc) : Disposes s t := by
  cases h
  exact ⟨.advance, congrArg (· + 2) hpc, fun _ h => nomatch h⟩

theorem Disposes.of_jump {a : Word} (h : u.finish (.jump a) = .next t)
    (ha : a.toNat ≤ 0x10FE ∨ ∃ k : Fin 16, a = s.stack[k]) : Disposes s t := by
  cases h
  exact ⟨.jump a, rfl, by rintro _ ⟨⟩; exact ha⟩

theorem Disposes.of_skipIf {c : Bool} (h : s.skipIf c = .next t) : Disposes s t := by
  cases h
  exact ⟨_, rfl, by cases c <;> exact fun _ h => nomatch h⟩

theorem Disposes.of_guarded {f : Option Fault} {effect : State → Result} (h : guarded f s effect = .next t)
    (heffect : effect s = .next t → Disposes s t) : Disposes s t := by
  obtain ⟨r, -, rfl⟩ | ⟨-, ht⟩ := guarded_cases h
  · exact .hold rfl
  · exact heffect ht

theorem toNat_wide (b : Byte) : (wide b).toNat = b.toNat := BitVec.toNat_setWidth_of_le (by decide)

/-- The target of JP V0 is a sum of naturals (rule R105). -/
theorem toNat_addressOf_add_wide (a : BitVec 12) (b : Byte) : (addressOf a + wide b).toNat = a.toNat + b.toNat := by
  have ha := a.isLt
  have hb := b.isLt
  rw [BitVec.toNat_add, toNat_addressOf, toNat_wide, Nat.mod_eq_of_lt (by omega)]

theorem State.scroll_pc (s : State) (f : Nat → Nat → Framebuffer → Framebuffer) : (s.scroll f).pc = s.pc := by
  rw [State.scroll_eq]

theorem State.modeSwitch_pc (s : State) : s.modeSwitch.pc = s.pc := by rw [State.modeSwitch_eq]

theorem Disposes.of_exec {i : Instr} (h : exec i s = .next t) : Disposes s t := by
  cases i with
  | jp a => exact .of_jump h (.inl (by have := a.isLt; rw [toNat_addressOf]; omega))
  | jpV0 a =>
    refine .of_jump h (.inl ?_)
    have ha := a.isLt
    have hb := (s.v (jumpRegister s.params a)).isLt
    rw [toNat_addressOf_add_wide]
    omega
  | call a =>
    simp only [exec, execCall] at h
    split at h
    · exact .of_jump h (.inl (by have := a.isLt; rw [toNat_addressOf]; omega))
    · cases h; exact .hold rfl
  | ret =>
    simp only [exec, execRet] at h
    split at h
    · exact .of_jump h (.inr ⟨⟨s.sp.val - 1, by omega⟩, rfl⟩)
    · cases h; exact .hold rfl
  | seImm | sneImm | seReg | sneReg => exact .of_skipIf h
  | skp | sknp =>
    simp only [exec, execSkp, execSknp] at h
    exact .of_guarded h .of_skipIf
  | exit | ldVxK => cases h; exact .hold rfl
  | scd | scr | scl => exact .of_advance h (State.scroll_pc s _)
  | low | high => exact .of_advance h (State.modeSwitch_pc _)
  | add | sub | shr | subn | shl => exact .of_advance h (State.writeRF_pc s _ _ _)
  | addImm | addI =>
    simp only [exec, execAddImm, execAddI] at h
    split at h <;> exact .of_advance h rfl
  | drw x y n =>
    simp only [exec, execDrw] at h
    split at h
    · exact .of_advance h rfl
    · exact .of_guarded h fun h => .of_advance h rfl
  | ldB | store | load | storeR | loadR =>
    simp only [exec, execLdB, execStore, execLoad, execStoreR, execLoadR] at h
    exact .of_guarded h fun h => .of_advance h (by simp)
  | _ => exact .of_advance h rfl

/-! ### The invariant of a step -/

/-- From an address that was fetched, pc goes no further than a jump with a byte added (rules R25, R101). -/
theorem Disposes.pc_le (h : Disposes s t) (hpc : s.pc.toNat ≤ 0xFFE) (hstack : ∀ k : Fin 16, s.stack[k].toNat ≤ 0x1000) :
    t.pc.toNat ≤ 0x10FE := by
  obtain ⟨d, ht, hjump⟩ := h
  rw [ht]
  cases d with
  | hold => change s.pc.toNat ≤ 0x10FE; omega
  | advance => change (s.pc + 2).toNat ≤ 0x10FE; bv_omega
  | skip => change (s.pc + 4).toNat ≤ 0x10FE; bv_omega
  | jump a =>
    obtain ha | ⟨k, rfl⟩ := hjump a rfl
    · exact ha
    · exact (hstack k).trans (by decide)

/-- A step's stores keep memory canonical (rules R237, R238; log 9). -/
theorem exec_memWf {i : Instr} (hs : s.MemWf) (h : exec i s = .next t) : t.MemWf := by
  have hframe := WritersFrame.of_exec h
  cases i with
  | ldB x =>
    simp only [exec, execLdB] at h
    obtain ⟨r, -, rfl⟩ | ⟨-, ht⟩ := guarded_cases h
    · exact hs
    · cases ht; exact State.writeBytes_wf hs _ _
  | store x =>
    simp only [exec, execStore] at h
    obtain ⟨r, -, rfl⟩ | ⟨-, ht⟩ := guarded_cases h
    · exact hs
    · cases ht
      rw [State.blockIncrement_eq]
      exact State.writeBytes_wf hs _ _
  | _ =>
    unfold State.MemWf
    rw [hframe.params, hframe.mem (by simp)]
    exact hs

/-- CALL alone writes a stack entry, and what it writes is the address after it (rule R103). -/
theorem exec_stack {i : Instr} (h : exec i s = .next t) (k : Fin 16) : t.stack[k] = s.stack[k] ∨ t.stack[k] = s.pc + 2 := by
  have hframe := WritersFrame.of_exec h
  cases i with
  | call a =>
    simp only [exec, execCall] at h
    split at h
    · cases h
      simp only [Fin.getElem_fin, Vector.getElem_set]
      split <;> simp
    · cases h; exact .inl rfl
  | _ => exact .inl (by rw [hframe.stack (by simp)])

/-- Only LD Vx, K enters a key wait, and it holds pc (rule R213). -/
theorem exec_ctl {i : Instr} (h : exec i s = .next t) : t.ctl = s.ctl ∨ t.pc = s.pc := by
  have hframe := WritersFrame.of_exec h
  cases i with
  | ldVxK x => cases h; exact .inr rfl
  | _ => exact .inl (hframe.ctl (by simp))

theorem State.Inv.of_exec {i : Instr} (hs : s.Inv) (hctl : s.ctl = .running) (hpc : s.pc.toNat ≤ 0xFFE)
    (h : exec i s = .next t) : t.Inv where
  memory := exec_memWf hs.memory h
  pc := (Disposes.of_exec h).pc_le hpc hs.stack
  stack k := by
    obtain hk | hk := exec_stack h k
    · rw [hk]; exact hs.stack k
    · rw [hk]; bv_omega
  waiting x hx := by
    obtain hkept | hheld := exec_ctl h
    · rw [hkept, hctl] at hx; cases hx
    · rw [hheld]; exact hpc

/-- The resolving step leaves the address of the key wait for the one after it (rule R214). -/
theorem State.Inv.of_resolveKey {x : Reg} (hs : s.Inv) (hctl : s.ctl = .awaitingKey x) : (s.resolveKey x).Inv := by
  cases hkey : s.lowestKey with
  | none => rw [State.resolveKey_of_none hkey]; exact hs
  | some k =>
    have hpc := hs.waiting x hctl
    rw [State.resolveKey_of_some hkey]
    exact ⟨hs.memory, by change (s.pc + 2).toNat ≤ 0x10FE; bv_omega, hs.stack, fun _ h => nomatch h⟩

theorem State.Inv.of_stepCall {keyIn : BitVec 16} {rnd : Byte} (hs : s.Inv) (h : stepCall keyIn rnd s = .next t) :
    t.Inv := by
  have hbegin : (s.beginStep keyIn rnd).Inv := { hs with }
  obtain ⟨r, -, rfl⟩ | ⟨x, -, hctl, rfl⟩ | ⟨r, hready, -, rfl⟩ | ⟨op, hready, hfetch, -, hunknown⟩ |
    ⟨i, hready, hfetch, -, hexec⟩ := stepCall_cases h
  · exact { hs with }
  · exact hbegin.of_resolveKey hctl
  · exact { hs with }
  · have hpc : s.pc.toNat ≤ 0xFFE := State.fetch_pc_le hfetch
    cases hunknown
    refine ⟨hs.memory, by change (s.pc + 2).toNat ≤ 0x10FE; bv_omega, hs.stack, fun x hx => ?_⟩
    exact nomatch hready.2.symm.trans hx
  · exact hbegin.of_exec hready.2 (State.fetch_pc_le hfetch) hexec

/-- The state that an accepted reset constructs (rule R302). -/
theorem State.Inv.of_hostReset (s : State) {image : List Byte} (h : image.length ≤ 3584) : (s.hostReset image).Inv := by
  have hwf : State.MemWf { State.reset with params := s.params } := rfl
  rw [State.hostReset_of_le s h]
  refine ⟨State.writeBytes_wf hwf _ _, by simp [State.reset], fun k => by simp [State.reset], fun x hx => ?_⟩
  exact nomatch (State.writeBytes_ctl _ _ _).symm.trans hx

theorem State.Inv.of_hostCall {c : HostCall} (hs : s.Inv) (h : hostCall c s = .next t) : t.Inv := by
  cases c with
  | step keyIn rnd => exact hs.of_stepCall h
  | tick | clearDirty => cases h; exact { hs with }
  | reset image =>
    obtain rfl : s.hostReset image = t := Host.Outcome.next.inj h
    by_cases hle : image.length ≤ 3584
    · exact .of_hostReset s hle
    · rw [s.hostReset_of_gt (by omega)]
      exact { hs with }

end

/-- Settles O19: what executes was fetched, so pc is at most 0xFFE before it. -/
theorem everyStepKeepsTheInvariant : Obligations.EveryStepKeepsTheInvariant := fun _ _ =>
  step_keeps (fun _ _ _ hs => { hs with }) fun _ _ _ hs => hs.of_hostCall

end Sys2Proof.Machine
end

section
/-! SUPPORT. The writers of each component, the dirty flag, the resolving step of a key wait; and what an instruction reads:
the sound timer and the general registers it does not read change its result in themselves alone. The statements of
10_state.md. -/

namespace Sys2Proof.Machine

/-! ### The writers of each component -/

/-- No host call changes the parameters (rule R300). -/
theorem hostCall_params {c : HostCall} {s t : State} (h : hostCall c s = .next t) : t.params = s.params := by
  cases c with
  | tick | clearDirty => cases h; rfl
  | reset image =>
    obtain rfl : s.hostReset image = t := Host.Outcome.next.inj h
    by_cases hle : image.length ≤ 3584
    · rw [s.hostReset_of_le hle]
      exact State.writeBytes_params _ _ _
    · rw [s.hostReset_of_gt (by omega)]
  | step keyIn rnd =>
    obtain ⟨r, -, rfl⟩ | ⟨x, -, -, rfl⟩ | ⟨r, -, -, rfl⟩ | ⟨op, -, -, -, hunknown⟩ | ⟨i, -, -, -, hexec⟩ :=
      stepCall_cases h
    · rfl
    · rw [State.resolveKey_eq]; rfl
    · rfl
    · cases hunknown; rfl
    · exact (WritersFrame.of_exec hexec).params

/-- Settles O15: an instruction changes no component but those that it is a writer of. -/
theorem eachComponentHasItsWriters : Obligations.EachComponentHasItsWriters := by
  refine ⟨fun i s t h => ?_, fun _ _ _ => hostCall_params⟩
  obtain ⟨hmem, hstack, hsp, haux, hext, hctl, hindex, hfb, hregisters, hdelay, hsound, hdirty, hfault, hkeys, hparams⟩ :=
    WritersFrame.of_exec h
  exact ⟨fun h => State.readByte_congr (hmem h) hparams, hstack, hsp, haux, hext, hctl, hindex, hfb, hregisters, hdelay,
    hsound, hdirty, hfault, hkeys, hparams⟩

/-! ### The dirty flag -/

section
variable {s t : State}

theorem State.scroll_of_ext (hext : s.ext = true) (f : Nat → Nat → Framebuffer → Framebuffer) :
    s.scroll f = s.setFb (f 128 64 s.fb) := by
  simp only [State.scroll, hext, if_true, activeWidth, activeHeight]

theorem State.scroll_full (hext : s.ext = false) (hmode : s.params.baseModeScroll = .full)
    (f : Nat → Nat → Framebuffer → Framebuffer) : s.scroll f = s.setFb (f 64 32 s.fb) := by
  simp only [State.scroll, hext, hmode, Bool.false_eq_true, if_false, activeWidth, activeHeight]

theorem State.scroll_unspecified (hext : s.ext = false) (hmode : s.params.baseModeScroll = .unspecified)
    (f : Nat → Nat → Framebuffer → Framebuffer) : s.scroll f = s.drawFb := by
  simp only [State.scroll, hext, hmode, Bool.false_eq_true, if_false]

/-- A scroll sets the dirty flag, but for the no-op of base mode (rule R183). -/
theorem State.scroll_dirty (h : ¬ (s.ext = false ∧ s.params.baseModeScroll = .noop))
    (f : Nat → Nat → Framebuffer → Framebuffer) : (s.scroll f).dirty = true := by
  cases hext : s.ext with
  | true => rw [State.scroll_of_ext hext, State.setFb_dirty]
  | false =>
    cases hmode : s.params.baseModeScroll with
    | unspecified => rw [State.scroll_unspecified hext hmode, State.drawFb_dirty]
    | noop => exact absurd ⟨hext, hmode⟩ h
    | full => rw [State.scroll_full hext hmode, State.setFb_dirty]

theorem State.modeSwitch_dirty (s : State) : s.modeSwitch.dirty = true := by rw [State.modeSwitch_eq]

/-- A display instruction that takes effect sets the dirty flag (rule R183). -/
theorem exec_dirty_of_setsDirty {i : Instr} (h : exec i s = .next t) (hsets : setsDirty s i) (hfault : t.fault = none) :
    t.dirty = true := by
  cases i with
  | cls => cases h; rfl
  | low | high => cases h; exact State.modeSwitch_dirty _
  | scd | scr | scl => cases h; exact State.scroll_dirty hsets _
  | drw x y n =>
    simp only [exec, execDrw, if_neg hsets] at h
    obtain ⟨r, -, rfl⟩ | ⟨-, ht⟩ := guarded_cases h
    · cases hfault
    · cases ht; rfl
  | _ => exact absurd hsets id

/-- A fault leaves the dirty flag as it was (rule R272). -/
theorem exec_dirty_of_fault {i : Instr} (hnone : s.fault = none) (h : exec i s = .next t) (hfault : t.fault ≠ none) :
    t.dirty = s.dirty := by
  obtain hkept | ⟨r, rfl, -⟩ := KeepsLatchOrFaults.of_exec h
  · exact absurd (hkept.trans hnone) hfault
  · rfl

theorem exec_keeps_dirty {i : Instr} (hnone : s.fault = none) (h : exec i s = .next t) (hdirty : s.dirty = true) :
    t.dirty = true := by
  by_cases hsets : setsDirty s i
  · by_cases hfault : t.fault = none
    · exact exec_dirty_of_setsDirty h hsets hfault
    · exact (exec_dirty_of_fault hnone h hfault).trans hdirty
  · exact ((WritersFrame.of_exec h).dirty hsets).trans hdirty

theorem stepCall_keeps_dirty {keyIn : BitVec 16} {rnd : Byte} (h : stepCall keyIn rnd s = .next t)
    (hdirty : s.dirty = true) : t.dirty = true := by
  obtain ⟨r, -, rfl⟩ | ⟨x, -, -, rfl⟩ | ⟨r, -, -, rfl⟩ | ⟨op, -, -, -, hunknown⟩ | ⟨i, hready, -, -, hexec⟩ :=
    stepCall_cases h
  · exact hdirty
  · rw [State.resolveKey_eq]; exact hdirty
  · exact hdirty
  · cases hunknown; exact hdirty
  · exact exec_keeps_dirty (s := s.beginStep keyIn rnd) hready.1 hexec hdirty

end

/-- Settles O16: what is not a setter writes no dirty flag, and a setter sets it unless its whole effect is a fault. -/
theorem dirtyIsSetByDisplayInstructionsAndNeverCleared : Obligations.DirtyIsSetByDisplayInstructionsAndNeverCleared :=
  ⟨fun _ _ _ hnone h =>
    ⟨exec_dirty_of_setsDirty h, (WritersFrame.of_exec h).dirty, exec_dirty_of_fault hnone h⟩,
    fun _ _ _ _ => stepCall_keeps_dirty, fun _ _ h => by cases h; rfl⟩

/-! ### The resolving step -/

/-- Settles O11: the least key pressed is the one that the snapshot's search finds. -/
theorem keyWaitResolvesToLowestKey : Obligations.KeyWaitResolvesToLowestKey := by
  intro s x keyIn rnd hfault hctl
  refine ⟨fun k hk hpressed hlowest => ?_, fun hkeys => hkeys ▸ stepCall_of_no_key hfault hctl rnd⟩
  have hV (q : Reg) : ((s.beginStep keyIn rnd).setV x (BitVec.ofNat 8 k)).v q = if q = x then BitVec.ofNat 8 k else s.v q :=
    State.v_setV _ _ _ _
  refine ⟨_, stepCall_of_lowest_key hfault hctl hk hpressed hlowest rnd, ?_, fun q hq => (hV q).trans (if_neg hq), rfl⟩
  calc
    _ = (BitVec.ofNat 8 k).toNat := congrArg BitVec.toNat ((hV x).trans (if_pos rfl))
    _ = k := Nat.mod_eq_of_lt (by omega)

/-- A step of a waiting machine writes no register but the awaited one (rules R112, R214). -/
theorem stepCall_v_of_awaitingKey {s t : State} {x r : Reg} {keyIn : BitVec 16} {rnd : Byte} (hctl : s.ctl = .awaitingKey x)
    (h : stepCall keyIn rnd s = .next t) (hr : r ≠ x) : t.v r = s.v r := by
  cases hfault : s.fault with
  | some f => rw [stepCall_of_fault hfault] at h; cases h; rfl
  | none =>
    rw [stepCall_of_awaitingKey hfault hctl] at h
    cases h
    cases hkey : (s.beginStep keyIn rnd).lowestKey with
    | none => rw [State.resolveKey_of_none hkey]; rfl
    | some k =>
      rw [State.resolveKey_of_some hkey]
      exact (State.v_setV _ _ _ _).trans (if_neg hr)

/-! ### Results that differ in what is not read -/

/-- A result with its next state changed. -/
def mapNext (g : State → State) : Result → Result
  | .next t => .next (g t)
  | .fault r => .fault r
  | .refused r => .refused r

theorem mapNext_guarded {g : State → State} {s : State} {effect : State → Result} (f : Option Fault)
    (hfault : ∀ r, g (s.takeFault r) = (g s).takeFault r) (heffect : mapNext g (effect s) = effect (g s)) :
    mapNext g (guarded f s effect) = guarded f (g s) effect := by
  cases f with
  | none => exact heffect
  | some r => exact congrArg _ (hfault r)

/-- Stores depend on the memory before them and on the parameters alone. -/
theorem State.writeBytes_mem_congr {s t : State} (hmem : t.mem = s.mem) (hparams : t.params = s.params) (a : Nat)
    (bs : List Byte) : (t.writeBytes a bs).mem = (s.writeBytes a bs).mem := by
  induction bs generalizing s t a with
  | nil => exact hmem
  | cons b bs ih =>
    refine ih ?_ (by simp [hparams]) (a + 1)
    unfold State.writeByte
    split
    · change Memory.write _ t.mem a b = Memory.write _ s.mem a b
      rw [hmem, hparams]
    · exact hmem

/-- The state with V and ST changed: the two components whose reads are spoken of here. -/
def State.mapVS (s : State) (v : Vector Byte 16 → Vector Byte 16) (st : Byte → Byte) : State :=
  { s with V := v s.V, ST := st s.ST }

section
variable {s : State} {v : Vector Byte 16 → Vector Byte 16} {st : Byte → Byte}

theorem State.mapVS_scroll (f : Nat → Nat → Framebuffer → Framebuffer) :
    (s.mapVS v st).scroll f = (s.scroll f).mapVS v st := by
  cases hext : s.ext with
  | true => rw [State.scroll_of_ext hext, State.scroll_of_ext (s := s.mapVS v st) hext]; rfl
  | false =>
    cases hmode : s.params.baseModeScroll with
    | unspecified =>
      rw [State.scroll_unspecified hext hmode, State.scroll_unspecified (s := s.mapVS v st) hext hmode]
      unfold State.drawFb
      rfl
    | noop => rw [State.scroll_noop hext hmode, State.scroll_noop (s := s.mapVS v st) hext hmode]
    | full => rw [State.scroll_full hext hmode, State.scroll_full (s := s.mapVS v st) hext hmode]; rfl

theorem State.mapVS_modeSwitch (ext : Bool) :
    ({ s.mapVS v st with ext := ext }).modeSwitch = ({ s with ext := ext }).modeSwitch.mapVS v st := by
  have hparams : (s.mapVS v st).params = s.params := rfl
  unfold State.modeSwitch
  rw [hparams]
  cases s.params.modeSwitchFb with
  | unspecified => unfold State.drawFb; rfl
  | keep | clear => rfl

theorem State.mapVS_writeBytes (a : Nat) (bs : List Byte) :
    (s.mapVS v st).writeBytes a bs = (s.writeBytes a bs).mapVS v st := by
  rw [State.writeBytes_eq (s.mapVS v st), State.writeBytes_mem_congr (s := s) (t := s.mapVS v st) rfl rfl,
    State.writeBytes_eq s]
  rfl

theorem State.mapVS_blockIncrement (x : Reg) :
    (s.mapVS v st).blockIncrement x = (s.blockIncrement x).mapVS v st := by
  rw [State.blockIncrement_eq, State.blockIncrement_eq]
  rfl

theorem State.mapVS_writeRF_sound (x : Reg) (r f : Byte) :
    (s.mapVS id st).writeRF x r f = (s.writeRF x r f).mapVS id st := by
  by_cases hx : x = vf
  · subst hx
    cases horder : s.params.vfResultOrder with
    | unspecified => rw [State.writeRF_unspecified horder, State.writeRF_unspecified (s := s.mapVS id st) horder]; rfl
    | flagLast => rw [State.writeRF_flagLast horder, State.writeRF_flagLast (s := s.mapVS id st) horder]; rfl
    | resultLast => rw [State.writeRF_resultLast horder, State.writeRF_resultLast (s := s.mapVS id st) horder]; rfl
  · rw [State.writeRF_of_ne _ hx, State.writeRF_of_ne _ hx]
    rfl

end

/-! ### The sound timer is not read -/

/-- The state with another value in the sound timer. -/
def State.withSound (s : State) (b : Byte) : State := s.mapVS id fun _ => b

section
variable {s : State} {b : Byte}

theorem mapNext_withSound_finish {u u' : State} (d : Disposition) (h : u' = u.withSound b) :
    mapNext (·.withSound b) (u.finish d) = u'.finish d := by
  rw [h]
  rfl

/-- An instruction that does not load ST carries a change of it through (rule R28). -/
theorem mapNext_withSound_exec {i : Instr} (hi : ∀ x, i ≠ .ldStVx x) :
    mapNext (·.withSound b) (exec i s) = exec i (s.withSound b) := by
  cases i with
  | ldStVx x => exact absurd rfl (hi x)
  | call a =>
    simp only [exec, execCall]
    exact apply_dite ..
  | ret =>
    simp only [exec, execRet]
    exact apply_dite ..
  | addImm | addI =>
    simp only [exec, execAddImm, execAddI]
    exact apply_ite ..
  | scd | scr | scl => exact mapNext_withSound_finish .advance (State.mapVS_scroll _)
  | low | high => exact mapNext_withSound_finish .advance (State.mapVS_modeSwitch (v := id) (st := fun _ => b) _)
  | add | sub | shr | subn | shl => exact mapNext_withSound_finish .advance (State.mapVS_writeRF_sound _ _ _)
  | skp | sknp | storeR | loadR =>
    simp only [exec, execSkp, execSknp, execStoreR, execLoadR]
    exact mapNext_guarded _ (fun _ => rfl) rfl
  | ldB x =>
    simp only [exec, execLdB]
    exact mapNext_guarded _ (fun _ => rfl) (mapNext_withSound_finish .advance (State.mapVS_writeBytes _ _))
  | store x =>
    simp only [exec, execStore]
    refine mapNext_guarded _ (fun _ => rfl) (mapNext_withSound_finish .advance ?_)
    exact (congrArg (State.blockIncrement · x) (State.mapVS_writeBytes _ _)).trans (State.mapVS_blockIncrement x)
  | load x =>
    simp only [exec, execLoad]
    refine mapNext_guarded _ (fun _ => rfl) ?_
    change mapNext _ (State.finish (State.blockIncrement (s.loadUpTo x fun k => s.readByte (s.I.toNat + k)) x) _) =
      State.finish (State.blockIncrement ((s.withSound b).loadUpTo x fun k => s.readByte (s.I.toNat + k)) x) _
    generalize (fun k => s.readByte (s.I.toNat + k)) = f
    exact mapNext_withSound_finish .advance
      (State.mapVS_blockIncrement (s := s.loadUpTo x f) (v := id) (st := fun _ => b) x)
  | drw x y n =>
    simp only [exec, execDrw]
    refine (apply_ite (mapNext (·.withSound b)) _ _ _).trans ?_
    rw [mapNext_guarded _ (fun _ => rfl) rfl]
    rfl
  | _ => rfl

end

/-- Settles O18: LD ST, Vx overwrites the timer, and every other instruction carries a change of it through. -/
theorem noInstructionReadsTheSoundTimer : Obligations.NoInstructionReadsTheSoundTimer := by
  intro i s t b h
  refine ⟨fun hi => ?_, ?_⟩
  · have hmap := mapNext_withSound_exec (s := s) (b := b) hi
    rw [h] at hmap
    exact hmap.symm
  · rintro x rfl
    exact h

/-! ### The registers that are not read -/

section
variable {r : Reg} {b : Byte} {s u u' : State}

/-- From `u` to `u'`: register `r` holds `b` instead, or nothing differs. -/
def Carries (r : Reg) (b : Byte) (u u' : State) : Prop := u' = u.setV r b ∨ u' = u

/-- The same of the next states of two results. -/
def CarriesNext (r : Reg) (b : Byte) (R R' : Result) : Prop := R' = mapNext (·.setV r b) R ∨ R' = R

theorem Carries.finish (d : Disposition) (h : Carries r b u u') : CarriesNext r b (u.finish d) (u'.finish d) := by
  obtain rfl | rfl := h
  · exact .inl rfl
  · exact .inr rfl

theorem CarriesNext.guarded {f : Option Fault} {effect : State → Result}
    (h : CarriesNext r b (effect s) (effect (s.setV r b))) :
    CarriesNext r b (guarded f s effect) (guarded f (s.setV r b) effect) := by
  cases f with
  | none => exact h
  | some r => exact .inl rfl

theorem CarriesNext.ite {c : Prop} [Decidable c] {R R' Q Q' : Result} (hthen : c → CarriesNext r b R R')
    (helse : ¬ c → CarriesNext r b Q Q') : CarriesNext r b (if c then R else Q) (if c then R' else Q') := by
  split
  · exact hthen ‹_›
  · exact helse ‹_›

/-- A write of another register carries the difference through, and a write of `r` ends it. -/
theorem Carries.setV (x : Reg) (c : Byte) (h : Carries r b u u') : Carries r b (u.setV x c) (u'.setV x c) := by
  obtain rfl | rfl := h
  · by_cases hx : r = x
    · subst hx
      refine .inr ?_
      simp [State.setV]
    · refine .inl ?_
      simp only [State.setV]
      rw [Vector.set_comm]
      exact fun h => hx (Fin.ext h)
  · exact .inr rfl

theorem Carries.self (r : Reg) (b : Byte) (s : State) : Carries r b s (s.setV r b) := .inl rfl

theorem Carries.writeRF (x : Reg) (res f : Byte) : Carries r b (s.writeRF x res f) ((s.setV r b).writeRF x res f) := by
  by_cases hx : x = vf
  · subst hx
    cases horder : s.params.vfResultOrder with
    | unspecified =>
      rw [State.writeRF_unspecified horder, State.writeRF_unspecified (s := s.setV r b) horder]
      exact (Carries.self r b { s with draws := s.draws + 1 }).setV _ _
    | flagLast =>
      rw [State.writeRF_flagLast horder, State.writeRF_flagLast (s := s.setV r b) horder]
      exact (Carries.self r b s).setV _ _
    | resultLast =>
      rw [State.writeRF_resultLast horder, State.writeRF_resultLast (s := s.setV r b) horder]
      exact (Carries.self r b s).setV _ _
  · rw [State.writeRF_of_ne _ hx, State.writeRF_of_ne _ hx]
    exact ((Carries.self r b s).setV _ _).setV _ _

theorem State.ext_V {s t : State} (hrest : t = { s with V := t.V }) (hV : ∀ q, t.v q = s.v q) : t = s := by
  have hVV : t.V = s.V := Vector.ext fun k hk => hV ⟨k, hk⟩
  rw [hrest, hVV]

/-- A block load of V0..Vx ends a difference in them, and carries any other through (rules R239, R241). -/
theorem Carries.loadUpTo (x : Reg) (f : Nat → Byte) : Carries r b (s.loadUpTo x f) ((s.setV r b).loadUpTo x f) := by
  by_cases hr : r.val ≤ x.val
  · refine .inr (State.ext_V rfl fun q => ?_)
    simp only [State.v_loadUpTo, State.v_setV]
    split
    · rfl
    case isFalse hq => exact if_neg (by rintro rfl; exact hq hr)
  · refine .inl (State.ext_V rfl fun q => ?_)
    simp only [State.v_loadUpTo, State.v_setV]
    by_cases hq : q = r
    · subst hq; simp [hr]
    · simp [hq]

theorem Carries.blockIncrement {x : Reg} (h : Carries r b u u') : Carries r b (u.blockIncrement x) (u'.blockIncrement x) := by
  obtain rfl | rfl := h
  · exact .inl (State.mapVS_blockIncrement (v := (·.set r b)) (st := id) x)
  · exact .inr rfl

theorem State.v_setV_of_ne {x : Reg} (h : ¬ r = x) : (s.setV r b).v x = s.v x :=
  (State.v_setV s r b x).trans (if_neg (Ne.symm h))

theorem State.regsUpTo_setV {x : Reg} (h : ¬ r.val ≤ x.val) : (s.setV r b).regsUpTo x = s.regsUpTo x := by
  refine List.ext_getElem (by simp only [State.length_regsUpTo]) fun k hk hk' => ?_
  rw [State.length_regsUpTo] at hk
  rw [State.getElem_regsUpTo, State.getElem_regsUpTo]
  exact State.v_setV_of_ne fun hr => h (by rw [hr]; exact Nat.le_of_lt_succ hk)

theorem State.saveAux_setV {x : Reg} (h : ¬ r.val ≤ x.val) : (s.setV r b).saveAux x = (s.saveAux x).setV r b := by
  have haux : ((s.setV r b).saveAux x).aux = (s.saveAux x).aux := by
    refine Vector.ext fun k hk => ?_
    simp only [State.saveAux, State.setV, Vector.getElem_ofFn]
    split
    · rw [Vector.getElem_set_ne]
      omega
    · rfl
  rw [State.saveAux_eq, haux, State.saveAux_eq s]
  rfl

/-- An instruction carries a difference in a register that it does not read through, or ends it (rule R24). -/
theorem CarriesNext.of_exec {i : Instr} (hr : ¬ readsRegister s.params i r) :
    CarriesNext r b (exec i s) (exec i (s.setV r b)) := by
  have hself : Carries r b s (s.setV r b) := .self r b s
  cases i with
  | ldImm | rnd | ldVxDt => exact (hself.setV _ _).finish _
  | seImm x nn | sneImm x nn =>
    simp only [exec, execSeImm, execSneImm, State.v_setV_of_ne hr]
    exact .inl rfl
  | seReg x y | sneReg x y =>
    obtain ⟨hx, hy⟩ := not_or.mp hr
    simp only [exec, execSeReg, execSneReg, State.v_setV_of_ne hx, State.v_setV_of_ne hy]
    exact .inl rfl
  | mov x y =>
    simp only [exec, execMov, State.v_setV_of_ne hr]
    exact (hself.setV _ _).finish _
  | or x y | and x y | xor x y =>
    obtain ⟨hx, hy⟩ := not_or.mp hr
    simp only [exec, execOr, execAnd, execXor, State.v_setV_of_ne hx, State.v_setV_of_ne hy]
    exact (hself.setV _ _).finish _
  | add x y | sub x y | subn x y =>
    obtain ⟨hx, hy⟩ := not_or.mp hr
    simp only [exec, execAdd, execSub, execSubn, State.v_setV_of_ne hx, State.v_setV_of_ne hy]
    exact (Carries.writeRF _ _ _).finish _
  | shr x | shl x =>
    simp only [exec, execShr, execShl, State.v_setV_of_ne hr]
    exact (Carries.writeRF _ _ _).finish _
  | addImm x nn =>
    simp only [exec, execAddImm, State.v_setV_of_ne hr]
    exact .ite (fun _ => hself.finish _) fun _ => (hself.setV _ _).finish _
  | addI x =>
    simp only [exec, execAddI]
    refine .ite (fun _ => hself.finish _) fun hquirk => ?_
    rw [State.v_setV_of_ne fun hx => hr ⟨hx, hquirk⟩]
    exact .inl rfl
  | jpV0 a =>
    simp only [exec, execJpV0, State.setV_params, State.v_setV_of_ne hr]
    exact .inl rfl
  | ldDtVx x | ldStVx x | ldF x | ldHF x =>
    simp only [exec, execLdDtVx, execLdStVx, execLdF, execLdHF, State.v_setV_of_ne hr]
    exact .inl rfl
  | skp x | sknp x =>
    simp only [exec, execSkp, execSknp, State.v_setV_of_ne hr]
    refine .guarded ?_
    rw [State.v_setV_of_ne hr]
    exact .inl rfl
  | call a | ret =>
    simp only [exec, execCall, execRet]
    refine .inl (Eq.symm ?_)
    exact apply_dite (mapNext (·.setV r b)) _ _ _
  | scd | scr | scl => exact .inl (congrArg (State.finish · .advance) (State.mapVS_scroll (v := (·.set r b)) (st := id) _))
  | low | high =>
    exact .inl (congrArg (State.finish · .advance) (State.mapVS_modeSwitch (v := (·.set r b)) (st := id) _))
  | drw x y n =>
    obtain ⟨hx, hy⟩ := not_or.mp hr
    have hfault : (s.setV r b).drawFault y n = s.drawFault y n := by
      simp only [State.drawFault, State.v_setV_of_ne hy]
      rfl
    simp only [exec, execDrw, hfault]
    refine .ite (fun _ => hself.finish _) fun _ => .guarded ?_
    simp only [State.v_setV_of_ne hx, State.v_setV_of_ne hy]
    refine Carries.finish _ (.setV vf _ (.inl rfl))
  | ldB x =>
    simp only [exec, execLdB]
    refine .guarded ?_
    rw [State.v_setV_of_ne hr]
    exact .inl (congrArg (State.finish · .advance) (State.mapVS_writeBytes (v := (·.set r b)) (st := id) _ _))
  | store x =>
    simp only [exec, execStore]
    refine .guarded ?_
    have hbytes := State.mapVS_writeBytes (s := s) (v := (·.set r b)) (st := id) s.I.toNat (s.regsUpTo x)
    have hindex := State.mapVS_blockIncrement (s := s.writeBytes s.I.toNat (s.regsUpTo x)) (v := (·.set r b)) (st := id) x
    rw [State.regsUpTo_setV hr]
    exact .inl (congrArg (State.finish · .advance) ((congrArg (State.blockIncrement · x) hbytes).trans hindex))
  | load x =>
    simp only [exec, execLoad]
    refine .guarded ?_
    change CarriesNext r b (State.finish (State.blockIncrement (s.loadUpTo x fun k => s.readByte (s.I.toNat + k)) x) _)
      (State.finish (State.blockIncrement ((s.setV r b).loadUpTo x fun k => s.readByte (s.I.toNat + k)) x) _)
    exact (Carries.loadUpTo x _).blockIncrement.finish _
  | storeR x =>
    simp only [exec, execStoreR]
    refine .guarded ?_
    rw [State.saveAux_setV hr]
    exact .inl rfl
  | loadR x =>
    simp only [exec, execLoadR]
    exact .guarded ((Carries.loadUpTo x _).finish _)
  | _ => exact .inl rfl

end

/-- Settles O17: the writers of a register are those of its row, and a difference in a register that is not read is carried
through or ended. -/
theorem registersAreReadAndWrittenAsTabled : Obligations.RegistersAreReadAndWrittenAsTabled := by
  refine ⟨fun _ _ _ h => (WritersFrame.of_exec h).registers, fun i s t t' r b hr h h' => ?_,
    fun _ _ _ _ _ hctl h _ => stepCall_v_of_awaitingKey hctl h⟩
  have hcarries := CarriesNext.of_exec (b := b) hr
  rw [h, h'] at hcarries
  obtain hnext | hnext := hcarries <;> cases hnext
  · have hV := State.v_setV t r b
    exact ⟨rfl, fun q hq => (hV q).trans (if_neg hq), .inl ((hV r).trans (if_pos rfl))⟩
  · exact ⟨rfl, fun _ _ => rfl, .inr rfl⟩

end Sys2Proof.Machine
end

section
/-! SUPPORT. The words of family 0, the scrolls and the mode switches by their parameters, the placed mask of a sprite and
the fold that draws it; and the statements of 42_display.md. -/

namespace Sys2Proof.Machine

/-! ### The words of family 0 -/

/-- A mask of family 0 that compares the whole low byte (rule R77). -/
theorem decode_of_and_zeroFamilyMask_byte {p : Params} {op : Word} {nn : Byte}
    (h : op &&& zeroFamilyMask (encodeX 0 0 0xFF) p = encodeX 0 0 nn) : decode p op = decodeZero p op ∧ nnField op = nn := by
  obtain ⟨hzero, hnn⟩ := decode_of_and_zeroFamilyMask h
  exact ⟨hzero, BitVec.and_allOnes.symm.trans hnn⟩

/-- The words of a row of family 0 whose low byte is fixed (rule R77). -/
theorem wordsDecode_of_zeroFamily {nn : Byte} {i : Instr} (h : ∀ p op, nnField op = nn → decodeZero p op = .instr i) :
    WordsDecode (zeroFamilyMask (encodeX 0 0 0xFF)) (encodeX 0 0 nn) (fun _ => i) := by
  intro p op hop
  obtain ⟨hzero, hnn⟩ := decode_of_and_zeroFamilyMask_byte hop
  exact hzero.trans (h p op hnn)

/-- The words of SCD: the high nibble of the low byte is C (rule R77). -/
theorem wordsDecode_scd : WordsDecode (zeroFamilyMask 0x00F0) 0x00C0 (fun op => .scd (nField op)) := by
  intro p op hop
  obtain ⟨hzero, hnn⟩ := decode_of_and_zeroFamilyMask (m := 0xF0) (nn := 0xC0) hop
  have hy : nibble (yField op) = 0xC := by
    have hmask : (0xF0 : Byte) = BitVec.allOnes 4 ++ 0#4 := rfl
    rw [nnField_eq, hmask, BitVec.and_append, BitVec.and_allOnes] at hnn
    exact BitVec.extractLsb'_append_eq_left.symm.trans (congrArg (BitVec.extractLsb' 4 4) hnn)
  exact hzero.trans (decodeZero_of_yField (congrArg BitVec.toFin hy) p)

/-! ### Scrolls -/

/-- No pixel outside the store is set. -/
theorem Framebuffer.pixel_inside (fb : Framebuffer) (y x : Nat) :
    (decide (y < 64 ∧ x < 128) && Framebuffer.pixel fb y x) = Framebuffer.pixel fb y x := by
  by_cases hy : y < 64
  · by_cases hx : x < 128
    · simp [hy, hx]
    · simp [Framebuffer.pixel_of_width _ _ hx]
  · simp [Framebuffer.pixel_of_not_lt _ hy]

/-- `f`, given a window's width and height, leaves the pixels that `g` says inside the window (the three scrolls of rules R175
to R178). -/
def Scrolls (f : Nat → Nat → Framebuffer → Framebuffer) (g : Nat → Framebuffer → Nat → Nat → Bool) : Prop :=
  ∀ w h fb y x, Framebuffer.pixel (f w h fb) y x =
    (decide (y < 64 ∧ x < 128) && if y < h ∧ x < w then g w fb y x else Framebuffer.pixel fb y x)

section
variable {i : Instr} {s : State} {f : Nat → Nat → Framebuffer → Framebuffer} {g : Nat → Framebuffer → Nat → Nat → Bool}

theorem Scrolls.pixel_window (hf : Scrolls f g) {w h y x : Nat} (hwindow : y < h ∧ x < w) (hstore : y < 64 ∧ x < 128)
    (fb : Framebuffer) : Framebuffer.pixel (f w h fb) y x = g w fb y x := by
  rw [hf, if_pos hwindow, decide_eq_true hstore, Bool.true_and]

theorem Scrolls.pixel_outside (hf : Scrolls f g) {w h y x : Nat} (hwindow : ¬ (y < h ∧ x < w)) (fb : Framebuffer) :
    Framebuffer.pixel (f w h fb) y x = Framebuffer.pixel fb y x := by
  rw [hf, if_neg hwindow, Framebuffer.pixel_inside]

/-- A scroll in extended mode: the window is the whole store (rules R175 to R177). -/
theorem exec_of_scroll_ext (h : exec i s = (s.scroll f).finish .advance) (hf : Scrolls f g) (hext : s.ext = true) :
    ∃ t, exec i s = .next t ∧ t.dirty = true ∧ t.pc = s.pc + 2 ∧ DisplayFrame s t ∧
      ∀ y x, y < 64 → x < 128 → Framebuffer.pixel t.fb y x = g 128 s.fb y x := by
  rw [State.scroll_of_ext hext] at h
  exact ⟨_, h, rfl, rfl, .of_setFb .., fun y x hy hx => hf.pixel_window ⟨hy, hx⟩ ⟨hy, hx⟩ s.fb⟩

/-- A scroll in base mode, by BASE_MODE_SCROLL (rule R178). -/
theorem exec_of_scroll_base (h : exec i s = (s.scroll f).finish .advance) (hf : Scrolls f g) (hext : s.ext = false) :
    ∃ t, exec i s = .next t ∧ t.pc = s.pc + 2 ∧ FreeDisplayFrame s t ∧ t.ext = s.ext ∧
      (s.params.baseModeScroll = .unspecified → t.dirty = true) ∧
      (s.params.baseModeScroll = .noop → t = { s with pc := t.pc }) ∧
      (s.params.baseModeScroll = .full → t.dirty = true ∧ t.draws = s.draws ∧
        (∀ y x, ¬ (y < 32 ∧ x < 64) → Framebuffer.pixel t.fb y x = Framebuffer.pixel s.fb y x) ∧
        ∀ y x, y < 32 → x < 64 → Framebuffer.pixel t.fb y x = g 64 s.fb y x) := by
  have hframe : FreeDisplayFrame s { s.scroll f with pc := (s.scroll f).pc + 2 } := by
    rw [State.scroll_eq]
    exact .of_fields s _ _ _ _ _
  refine ⟨_, h, congrArg (· + 2) (s.scroll_pc f), hframe, by rw [State.scroll_eq], fun hmode => ?_, fun hmode => ?_,
    fun hmode => ?_⟩
  · exact State.scroll_dirty (by simp [hmode]) f
  · rw [State.scroll_noop hext hmode]
  · rw [State.scroll_full hext hmode]
    exact ⟨rfl, rfl, fun y x hout => hf.pixel_outside hout s.fb,
      fun y x hy hx => hf.pixel_window ⟨hy, hx⟩ (by omega) s.fb⟩

end

theorem scrolls_scrolledDown (n : Nat) :
    Scrolls (scrolledDown n) fun _ fb y x => if n ≤ y then Framebuffer.pixel fb (y - n) x else false :=
  Framebuffer.pixel_scrolledDown n

theorem scrolls_scrolledRight :
    Scrolls scrolledRight fun _ fb y x => if 4 ≤ x then Framebuffer.pixel fb y (x - 4) else false :=
  Framebuffer.pixel_scrolledRight

theorem scrolls_scrolledLeft :
    Scrolls scrolledLeft fun w fb y x => if x < w - 4 then Framebuffer.pixel fb y (x + 4) else false :=
  Framebuffer.pixel_scrolledLeft

/-- Settles O43: each scroll's pixels, in the window that is the whole store. -/
theorem scrollsMoveEveryPixel : Obligations.ScrollsMoveEveryPixel :=
  ⟨wordsDecode_scd, wordsDecode_of_zeroFamily (nn := 0xFB) fun p op hnn => by simp [decodeZero, hnn],
    wordsDecode_of_zeroFamily (nn := 0xFC) fun p op hnn => by simp [decodeZero, hnn], fun _ hext =>
    ⟨fun n => exec_of_scroll_ext rfl (scrolls_scrolledDown n.val) hext, exec_of_scroll_ext rfl scrolls_scrolledRight hext,
      exec_of_scroll_ext rfl scrolls_scrolledLeft hext⟩⟩

/-- Settles O44: what a scroll changes in base mode is the same for all three; the pixels inside the window are each one's
own. -/
theorem scrollInBaseMode : Obligations.ScrollInBaseMode := by
  intro s hext i hi
  rcases hi with rfl | rfl | ⟨n, rfl⟩
  · obtain ⟨t, ht, hpc, hframe, htext, hfree, hnoop, hfull⟩ :=
      exec_of_scroll_base (i := .scr) rfl scrolls_scrolledRight hext
    refine ⟨t, ht, hpc, hframe, htext, hfree, hnoop, fun hmode => ?_⟩
    obtain ⟨hdirty, hdraws, hout, hin⟩ := hfull hmode
    exact ⟨hdirty, hdraws, hout, fun y x hy hx => ⟨by simp, fun _ => hin y x hy hx, by simp⟩⟩
  · obtain ⟨t, ht, hpc, hframe, htext, hfree, hnoop, hfull⟩ :=
      exec_of_scroll_base (i := .scl) rfl scrolls_scrolledLeft hext
    refine ⟨t, ht, hpc, hframe, htext, hfree, hnoop, fun hmode => ?_⟩
    obtain ⟨hdirty, hdraws, hout, hin⟩ := hfull hmode
    exact ⟨hdirty, hdraws, hout, fun y x hy hx => ⟨by simp, by simp, fun _ => hin y x hy hx⟩⟩
  · obtain ⟨t, ht, hpc, hframe, htext, hfree, hnoop, hfull⟩ :=
      exec_of_scroll_base (i := .scd n) rfl (scrolls_scrolledDown n.val) hext
    refine ⟨t, ht, hpc, hframe, htext, hfree, hnoop, fun hmode => ?_⟩
    obtain ⟨hdirty, hdraws, hout, hin⟩ := hfull hmode
    exact ⟨hdirty, hdraws, hout, fun y x hy hx => ⟨by rintro _ ⟨⟩; exact hin y x hy hx, by simp, by simp⟩⟩

/-- Settles O45: the columns that SCR moves back are those that SCL moved out of it, but for the four that it lost. -/
theorem scrollLeftThenRightClearsFourColumns : Obligations.ScrollLeftThenRightClearsFourColumns := by
  intro s t u hext hleft hright y x hy hx
  obtain ⟨t', ht', -, -, htframe, htpixel⟩ := exec_of_scroll_ext (i := .scl) rfl scrolls_scrolledLeft hext
  obtain rfl : t' = t := Host.Outcome.next.inj (ht'.symm.trans hleft)
  have htext : t'.ext = true := by rw [htframe.rest]; exact hext
  obtain ⟨u', hu', -, -, -, hupixel⟩ := exec_of_scroll_ext (i := .scr) rfl scrolls_scrolledRight htext
  obtain rfl : u' = u := Host.Outcome.next.inj (hu'.symm.trans hright)
  rw [hupixel y x hy hx]
  by_cases hfour : x < 4
  · rw [if_neg (by omega), if_pos hfour]
  · have hback : x - 4 + 4 = x := by omega
    rw [if_pos (by omega), if_neg hfour, htpixel y (x - 4) hy (by omega), if_pos (by omega), hback]

/-! ### The mode switches, CLS and EXIT -/

/-- Settles O40: the words of E0, and the blank store. -/
theorem clearScreenClearsEveryCell : Obligations.ClearScreenClearsEveryCell :=
  ⟨wordsDecode_of_zeroFamily (nn := 0xE0) fun p op hnn => by simp [decodeZero, hnn],
    fun s => ⟨_, rfl, Framebuffer.pixel_blank, rfl, rfl, .of_setFb s Framebuffer.blank _⟩⟩

/-- LOW and HIGH are the mode switch of rule R181 in the mode entered (rules R179, R180). -/
theorem exec_modeSwitch (m : Bool) (s : State) :
    exec (if m then .high else .low) s = ({ s with ext := m }).modeSwitch.finish .advance := by
  cases m <;> rfl

/-- Settles O46: the mode switch keeps the mode entered, and each setting that is specified is one write of the store. -/
theorem modeSwitchesSetTheMode : Obligations.ModeSwitchesSetTheMode := by
  refine ⟨wordsDecode_of_zeroFamily (nn := 0xFE) fun p op hnn => by simp [decodeZero, hnn],
    wordsDecode_of_zeroFamily (nn := 0xFF) fun p op hnn => by simp [decodeZero, hnn],
    fun s m => ⟨_, exec_modeSwitch m s, ?_, State.modeSwitch_dirty _, congrArg (· + 2) (State.modeSwitch_pc _), ?_,
      fun hkeep => ?_, fun hclear => ?_⟩⟩
  · rw [State.modeSwitch_eq]
  · rw [State.modeSwitch_eq]
    exact .of_fields s _ _ _ _ _
  · simp only [State.modeSwitch, hkeep]
    exact ⟨rfl, rfl⟩
  · simp only [State.modeSwitch, hclear]
    exact ⟨Framebuffer.pixel_blank, rfl⟩

/-- Settles O47: where EXIT_MODE = fault, family 0 dispatches FD to EXIT, whose effect is its fault. -/
theorem exitRaisesItsFault : Obligations.ExitRaisesItsFault := by
  refine ⟨fun p op hmode hop => ?_, fun s => ⟨_, rfl, rfl⟩⟩
  obtain ⟨hzero, hnn⟩ := decode_of_and_zeroFamilyMask_byte (nn := 0xFD) hop
  rw [hzero]
  simp [decodeZero, hnn, hmode]

/-! ### DRW: when it draws -/

theorem spriteRows_eq_rowsOf (n : Fin 16) : spriteRows n = rowsOf n := by
  simp [spriteRows, rowsOf]

theorem State.spriteRowBytes_eq_rowBytesOf (s : State) (n : Fin 16) : s.spriteRowBytes n = rowBytesOf s n := by
  simp [State.spriteRowBytes, rowBytesOf]

theorem State.spriteLength_eq (s : State) (n : Fin 16) : s.spriteLength n = rowsOf n * rowBytesOf s n := by
  rw [State.spriteLength, spriteRows_eq_rowsOf, State.spriteRowBytes_eq_rowBytesOf]

section
variable {s : State} {x y : Reg} {n : Fin 16}

theorem State.drawFault_of_gt (h : 0x1000 < s.I.toNat + rowsOf n * rowBytesOf s n) (y : Reg) :
    s.drawFault y n = some (.memoryOutOfRange (max s.I.toNat 0x1000)) := by
  rw [← s.spriteLength_eq] at h
  simp only [State.drawFault, rangeFault_of_gt h]

/-- Past the range check, the row check of base mode is the only one (rule R173). -/
theorem State.drawFault_of_row (h : s.I.toNat + rowsOf n * rowBytesOf s n ≤ 0x1000) (hrow : BaseRowFault s y n) :
    s.drawFault y n = some (.baseRowOutOfRange (s.v y)) := by
  rw [← s.spriteLength_eq] at h
  simp only [State.drawFault, rangeFault_eq_none.mpr h, spriteRows_eq_rowsOf]
  exact if_pos hrow

theorem State.drawFault_eq_none (h : s.I.toNat + rowsOf n * rowBytesOf s n ≤ 0x1000) (hrow : ¬ BaseRowFault s y n) :
    s.drawFault y n = none := by
  rw [← s.spriteLength_eq] at h
  simp only [State.drawFault, rangeFault_eq_none.mpr h, spriteRows_eq_rowsOf]
  exact if_neg hrow

/-- The framebuffer and the collision of a draw (rules R173, R174). -/
def State.drawn (s : State) (x y : Reg) (n : Fin 16) : Framebuffer × Bool :=
  blitAll s.fb (s.spriteCells (s.v x).toNat (s.v y).toNat n)

theorem exec_drw_of_fault {r : Fault} (hdraws : ¬ (s.ext = false ∧ n = 0)) (h : s.drawFault y n = some r) :
    exec (.drw x y n) s = .next (s.takeFault r) := by
  simp only [exec, execDrw, if_neg hdraws, h, guarded_some]

theorem exec_drw_of_draws (hdraws : ¬ (s.ext = false ∧ n = 0)) (h : s.drawFault y n = none) :
    exec (.drw x y n) s =
      .next { (s.setFb (s.drawn x y n).1).setV 15 (flagByte (s.drawn x y n).2) with pc := s.pc + 2 } := by
  simp only [exec, execDrw, if_neg hdraws, h, guarded_none]
  rfl

end

/-- Settles O41: the no-op of base mode, the two faults in their order, and the draw, one equation of exec each. -/
theorem drawRunsUnlessOutOfRange : Obligations.DrawRunsUnlessOutOfRange := by
  refine ⟨wordsDecode_of_opField (o := 0xD) fun p op hop => by simp [decode, hop], fun x y n s =>
    ⟨fun hnoop => if_pos hnoop, fun hdraws hgt => ?_, fun hdraws hle hrow => ?_, fun hdraws hle hrow => ?_⟩⟩
  · exact ⟨_, exec_drw_of_fault hdraws (State.drawFault_of_gt hgt y), rfl⟩
  · exact ⟨_, exec_drw_of_fault hdraws (State.drawFault_of_row hle hrow), rfl⟩
  · exact ⟨_, exec_drw_of_draws hdraws (State.drawFault_eq_none hle hrow), rfl, rfl, .of_setFb_setV ..⟩

/-! ### DRW: what it draws -/

/-- Each step of the fold flips one cell, so distinct cells of the store are flipped once each, and each is met as it was
before the draw (rule R174). -/
theorem foldl_blit {cells : List (Nat × Nat)} (hnodup : cells.Nodup) (hstore : ∀ c ∈ cells, c.1 < 64 ∧ c.2 < 128)
    (fb : Framebuffer) (hit : Bool) :
    (∀ y x, Framebuffer.pixel (cells.foldl blit (fb, hit)).1 y x = (Framebuffer.pixel fb y x ^^ decide ((y, x) ∈ cells))) ∧
      ((cells.foldl blit (fb, hit)).2 = true ↔ hit = true ∨ ∃ c ∈ cells, Framebuffer.pixel fb c.1 c.2 = true) := by
  induction cells generalizing fb hit with
  | nil => simp
  | cons c cells ih =>
    obtain ⟨hc, hnodup⟩ := List.nodup_cons.mp hnodup
    obtain ⟨hpixel, hhit⟩ := ih hnodup (fun d hd => hstore d (.tail c hd)) (Framebuffer.toggle fb c.1 c.2)
      (hit || Framebuffer.pixel fb c.1 c.2)
    have htoggle (y x : Nat) : Framebuffer.pixel (Framebuffer.toggle fb c.1 c.2) y x =
        (Framebuffer.pixel fb y x ^^ decide ((y, x) = c)) := by
      obtain ⟨hy, hx⟩ := hstore c (.head cells)
      rw [Framebuffer.pixel_toggle]
      congr 2
      grind
    have hrest (d : Nat × Nat) (hd : d ∈ cells) :
        Framebuffer.pixel (Framebuffer.toggle fb c.1 c.2) d.1 d.2 = Framebuffer.pixel fb d.1 d.2 := by
      rw [htoggle, decide_eq_false (by rintro rfl; exact hc hd), Bool.xor_false]
    refine ⟨fun y x => (hpixel y x).trans ?_, hhit.trans ?_⟩
    · rw [htoggle]
      by_cases h : (y, x) = c
      · subst h; simp [hc]
      · simp [h]
    · rw [Bool.or_eq_true, or_assoc, List.exists_mem_cons_iff]
      exact or_congr_right (or_congr_right (exists_congr fun d => and_congr_right fun hd => by rw [hrest d hd]))

section
variable {bv : BaseVertical} {ax ay cy cx : Nat}

theorem place_extended : place true bv ax ay = some (cy, cx) ↔ cx = ax ∧ cy = ay ∧ cx < 128 ∧ cy < 64 := by
  unfold place
  rw [if_pos rfl]
  split <;> simp <;> omega

theorem place_wrap : place false .wrap ax ay = some (cy, cx) ↔ cx = ax % 64 ∧ cy = ay % 32 := by
  simp [place, eq_comm, and_comm]

theorem place_clip : place false .clip ax ay = some (cy, cx) ↔ cx = ax % 64 ∧ cy = ay ∧ cy < 32 := by
  simp only [place, Bool.false_eq_true, if_false]
  split <;> simp <;> omega

theorem place_fault : place false .fault ax ay = some (cy, cx) ↔ cx = ax % 64 ∧ cy = ay := by
  simp [place, eq_comm, and_comm]

end

/-- Within a sprite's 16 columns and rows no two pixels are placed on one cell (rule R172). -/
theorem place_inj {ext : Bool} {bv : BaseVertical} {px py r r' c c' : Nat} {cell : Nat × Nat} (hr : r < 16) (hr' : r' < 16)
    (hc : c < 16) (hc' : c' < 16) (h : place ext bv (px + c) (py + r) = some cell)
    (h' : place ext bv (px + c') (py + r') = some cell) : r = r' ∧ c = c' := by
  obtain ⟨cy, cx⟩ := cell
  cases ext with
  | true => rw [place_extended] at h h'; omega
  | false =>
    cases bv with
    | wrap => rw [place_wrap] at h h'; omega
    | clip => rw [place_clip] at h h'; omega
    | fault => rw [place_fault] at h h'; omega

theorem rowsOf_le (n : Fin 16) : rowsOf n ≤ 16 := by
  unfold rowsOf
  split <;> omega

theorem rowBytesOf_le (s : State) (n : Fin 16) : rowBytesOf s n ≤ 2 := by
  unfold rowBytesOf
  split <;> omega

/-- No cell is drawn twice (rules R172, R173). -/
theorem State.nodup_spriteCells (s : State) (px py : Nat) (n : Fin 16) : (s.spriteCells px py n).Nodup := by
  have hrows := rowsOf_le n
  have hbytes := rowBytesOf_le s n
  unfold State.spriteCells
  rw [spriteRows_eq_rowsOf, State.spriteRowBytes_eq_rowBytesOf, List.nodup_flatMap]
  refine ⟨fun r hr => ?_, List.pairwise_lt_range.imp_of_mem fun {r r'} hr hr' hlt => ?_⟩
  · rw [List.mem_range] at hr
    refine List.pairwise_filterMap.mpr (List.pairwise_lt_range.imp_of_mem fun {c c'} hc hc' hlt => ?_)
    rw [List.mem_range] at hc hc'
    rintro cell h _ h' rfl
    rw [Option.ite_none_right_eq_some] at h h'
    exact absurd (place_inj (by omega) (by omega) (by omega) (by omega) h.2 h'.2).2 (by omega)
  · rw [List.mem_range] at hr hr'
    rintro cell h h'
    obtain ⟨c, hc, h⟩ := List.mem_filterMap.mp h
    obtain ⟨c', hc', h'⟩ := List.mem_filterMap.mp h'
    rw [List.mem_range] at hc hc'
    rw [Option.ite_none_right_eq_some] at h h'
    exact absurd (place_inj (by omega) (by omega) (by omega) (by omega) h.2 h'.2).1 (by omega)

/-- The cell at `cy` and `cx` is where rule R172 places the sprite pixel at column `ax` and row `ay`. -/
def Placed (s : State) (ax ay cy cx : Nat) : Prop :=
  if s.ext = true then cx = ax ∧ cy = ay ∧ cx < 128 ∧ cy < 64
  else cx = ax % 64 ∧
    match s.params.baseVertical with
    | .wrap => cy = ay % 32
    | .clip | .fault => cy = ay ∧ cy < 32

theorem place_eq_some_iff {s : State} {ax ay cy cx : Nat} (hrow : s.ext = false → s.params.baseVertical = .fault → ay < 32) :
    place s.ext s.params.baseVertical ax ay = some (cy, cx) ↔ Placed s ax ay cy cx := by
  unfold Placed
  cases hext : s.ext with
  | true => rw [if_pos rfl, place_extended]
  | false =>
    rw [if_neg Bool.false_ne_true]
    cases hvertical : s.params.baseVertical with
    | wrap => exact place_wrap
    | clip => exact place_clip
    | fault =>
      have hlt := hrow hext hvertical
      exact place_fault.trans (and_congr_right fun _ => ⟨fun h => ⟨h, h ▸ hlt⟩, And.left⟩)

/-- The cells of the fold are the placed mask of rule R174. -/
theorem State.mem_spriteCells {s : State} {y : Reg} {n : Fin 16} (hrow : ¬ BaseRowFault s y n) (px cy cx : Nat) :
    (cy, cx) ∈ s.spriteCells px (s.v y).toNat n ↔ SpriteCovers s px (s.v y).toNat n cy cx := by
  have hplace (r c : Nat) (hr : r < rowsOf n) :
      place s.ext s.params.baseVertical (px + c) ((s.v y).toNat + r) = some (cy, cx) ↔
        Placed s (px + c) ((s.v y).toNat + r) cy cx :=
    place_eq_some_iff fun hext hvertical => by
      by_contra hge
      exact hrow ⟨hext, hvertical, by omega⟩
  unfold State.spriteCells
  simp only [List.mem_flatMap, List.mem_filterMap, List.mem_range, spriteRows_eq_rowsOf,
    State.spriteRowBytes_eq_rowBytesOf, State.spriteBit, Option.ite_none_right_eq_some]
  constructor
  · rintro ⟨r, hr, c, hc, hbit, hcell⟩
    exact ⟨r, c, hr, hc, hbit, (hplace r c hr).mp hcell⟩
  · rintro ⟨r, c, hr, hc, hbit, hcell⟩
    exact ⟨r, hr, c, hc, hbit, (hplace r c hr).mpr hcell⟩

/-- Every covered cell is one of the store (rule R172). -/
theorem SpriteCovers.inside {s : State} {px py cy cx : Nat} {n : Fin 16} (h : SpriteCovers s px py n cy cx) :
    cy < 64 ∧ cx < 128 := by
  obtain ⟨r, c, -, -, -, hcell⟩ := h
  split at hcell
  · omega
  · split at hcell <;> omega

section
variable {s : State} {x y : Reg} {n : Fin 16}

/-- A draw exclusive-ors the placed mask into the framebuffer (rule R174). -/
theorem State.pixel_drawn (hrow : ¬ BaseRowFault s y n) (cy cx : Nat)
    [Decidable (SpriteCovers s (s.v x).toNat (s.v y).toNat n cy cx)] :
    Framebuffer.pixel (s.drawn x y n).1 cy cx =
      (Framebuffer.pixel s.fb cy cx ^^ decide (SpriteCovers s (s.v x).toNat (s.v y).toNat n cy cx)) := by
  have hcells := foldl_blit (s.nodup_spriteCells (s.v x).toNat (s.v y).toNat n)
    (fun _ hc => ((State.mem_spriteCells hrow _ _ _).mp hc).inside) s.fb false
  refine (hcells.1 cy cx).trans ?_
  simp only [State.mem_spriteCells hrow]

/-- A draw collides where the placed mask meets a set pixel (rule R174). -/
theorem State.drawn_collides_iff (hrow : ¬ BaseRowFault s y n) :
    (s.drawn x y n).2 = true ↔ ∃ cy cx, SpriteCovers s (s.v x).toNat (s.v y).toNat n cy cx ∧
      Framebuffer.pixel s.fb cy cx = true := by
  have hcells := foldl_blit (s.nodup_spriteCells (s.v x).toNat (s.v y).toNat n)
    (fun _ hc => ((State.mem_spriteCells hrow _ _ _).mp hc).inside) s.fb false
  refine hcells.2.trans ?_
  simp only [Bool.false_eq_true, false_or, Prod.exists, State.mem_spriteCells hrow]

end

/-- Settles O42: the fold over the distinct cells of the placed mask flips each and meets each as it was. -/
theorem drawXorsTheMaskAndDetectsCollision : Obligations.DrawXorsTheMaskAndDetectsCollision := by
  classical
  intro x y n s hdraws hle hrow
  have hpixel := State.pixel_drawn (x := x) hrow
  have hflag (b : Bool) : ((s.setFb (s.drawn x y n).1).setV 15 (flagByte b)).v 15 = flagByte b :=
    (State.v_setV _ _ _ _).trans (if_pos rfl)
  refine ⟨_, exec_drw_of_draws hdraws (State.drawFault_eq_none hle hrow), fun cy cx hcover => ?_, fun cy cx hcover => ?_,
    fun hmeets => ?_, fun hclear => ?_⟩
  · exact (hpixel cy cx).trans (by rw [decide_eq_true hcover, Bool.xor_true])
  · exact (hpixel cy cx).trans (by rw [decide_eq_false hcover, Bool.xor_false])
  · rw [(State.drawn_collides_iff hrow).mpr hmeets]
    exact hflag true
  · have hnone : (s.drawn x y n).2 = false := by
      rw [← Bool.not_eq_true, State.drawn_collides_iff hrow]
      rintro ⟨cy, cx, hcover, hset⟩
      rw [hclear cy cx hcover] at hset
      cases hset
    rw [hnone]
    exact hflag false

end Sys2Proof.Machine
end

section
/-! SUPPORT. The remaining instructions as equations of exec, with their results on naturals; the step that runs what it
fetched; the image that construction lays out. The remaining statements of 40_control_flow.md, 41_register_ops.md,
44_timer_io.md and 70_reset_and_hazards.md. -/

namespace Sys2Proof.Machine

/-! ### The step -/

theorem decodeZero_cases (p : Params) (op : Word) : (∃ i, decodeZero p op = .instr i) ∨ decodeZero p op = .unknown op := by
  unfold decodeZero
  split
  case h_5 | h_8 => split <;> simp
  all_goals exact .inl ⟨_, rfl⟩

theorem decodeAlu_cases (op : Word) : (∃ i, decodeAlu op = .instr i) ∨ decodeAlu op = .unknown op := by
  unfold decodeAlu
  split <;> simp

theorem decodeKey_cases (op : Word) : (∃ i, decodeKey op = .instr i) ∨ decodeKey op = .unknown op := by
  unfold decodeKey
  split <;> simp

theorem decodeMisc_cases (op : Word) : (∃ i, decodeMisc op = .instr i) ∨ decodeMisc op = .unknown op := by
  unfold decodeMisc
  split <;> simp

/-- A word decodes to an instruction, or is the unknown opcode that it is rejected as (rule R81). -/
theorem decode_cases (p : Params) (op : Word) : (∃ i, decode p op = .instr i) ∨ decode p op = .unknown op := by
  unfold decode
  split
  case h_1 =>
    split
    · exact .inr rfl
    · exact decodeZero_cases p op
  case h_6 | h_10 => split <;> simp
  case h_9 => exact decodeAlu_cases op
  case h_15 => exact decodeKey_cases op
  case h_16 => exact decodeMisc_cases op
  all_goals exact .inl ⟨_, rfl⟩

theorem eq_of_decode_eq_unknown {p : Params} {op w : Word} (h : decode p w = .unknown op) : op = w := by
  obtain ⟨i, hi⟩ | hunknown := decode_cases p w
  · rw [h] at hi; cases hi
  · rw [h] at hunknown; cases hunknown; rfl

theorem execWord_of_instr {op : Word} {i : Instr} {s : State} (h : decode s.params op = .instr i) :
    execWord op s = exec i s := by
  simp only [execWord, h]

/-- A step that fetches an instruction runs it, in the state that has taken the step's inputs in (rule R100). -/
theorem stepCall_of_decode {s : State} {i : Instr} (hready : s.Ready) (hfetch : s.CanFetch)
    (hi : decode s.params s.wordAtPc = .instr i) (keyIn : BitVec 16) (rnd : Byte) :
    stepCall keyIn rnd s = exec i { s with keys := keyIn, rnd := rnd, report := .ok } := by
  rw [stepCall_of_fetchFault_eq_none hready hfetch.fetchFault_eq_none]
  exact execWord_of_instr hi

/-- Settles O6: the schedule and the draw counter are not read by the fetch. -/
theorem stepRunsFetchedInstruction : Obligations.StepRunsFetchedInstruction := by
  intro s i hready hfetch hi
  refine ⟨fun keyIn rnd rest hpending => ?_, fun hpending => ⟨Config.freeKeys s.draws, Config.freeRnd s.draws, ?_⟩⟩
  · rw [step_eq_hostCall, State.nextCall_cons hpending]
    exact stepCall_of_decode (s := { s with pending := rest }) hready hfetch hi keyIn rnd
  · rw [step_eq_hostCall, State.nextCall_nil hpending]
    exact stepCall_of_decode (s := { s with draws := s.draws + 1 }) hready hfetch hi _ _

/-- Settles O7: the word fetched is the word reported. -/
theorem unknownOpcodeReportsAndAdvances : Obligations.UnknownOpcodeReportsAndAdvances := by
  intro s op keyIn rnd hready hfetch hunknown
  obtain rfl := eq_of_decode_eq_unknown hunknown
  refine ⟨rfl, ?_⟩
  rw [stepCall_of_fetchFault_eq_none hready hfetch.fetchFault_eq_none]
  exact execWord_of_unknown hunknown

/-! ### Construction and reset -/

/-- Memory after a load: the image from 0x200 on, and around it what is there with no image (rule R300). -/
theorem readByte_of_load (p : Params) {image : List Byte} (h : image.length ≤ 3584) (a : Nat) :
    (({ State.reset with params := p }).writeBytes 0x200 image).readByte a =
      if ha : 0x200 ≤ a ∧ a < 0x200 + image.length then image[a - 0x200]'(by omega) else initialByte p a := by
  have hwf : State.MemWf { State.reset with params := p } := rfl
  exact State.readByte_writeBytes hwf (by omega) a

theorem readByte_of_load_outside (p : Params) {image : List Byte} (h : image.length ≤ 3584) {a : Nat}
    (ha : ¬ (0x200 ≤ a ∧ a < 0x200 + image.length)) :
    (({ State.reset with params := p }).writeBytes 0x200 image).readByte a = initialByte p a :=
  (readByte_of_load p h a).trans (dif_neg ha)

/-- Settles O22: the fonts lie below the image, and an address beside all three reads as zero. -/
theorem constructLaysOutTheImage : Obligations.ConstructLaysOutTheImage := by
  refine fun p image => ⟨construct_of_gt p, fun h => ⟨_, construct_of_le p h, fun k => ?_, fun k => ?_, fun a hlow hhigh => ?_,
    fun k => ?_, fun a hlow hhigh => ?_, State.writeBytes_eq _ _ _⟩⟩
  · rw [readByte_of_load_outside p h (by omega), initialByte, dif_pos k.isLt]
    rfl
  · rw [readByte_of_load_outside p h (by omega), initialByte, dif_neg (by omega), dif_pos (by omega)]
    simp
  · rw [readByte_of_load_outside p h (by omega), initialByte, dif_neg (by omega), dif_neg (by omega)]
  · rw [readByte_of_load p h, dif_pos (by omega)]
    simp
  · rw [readByte_of_load_outside p h (by omega), initialByte, dif_neg (by omega), dif_neg (by omega)]

/-- Settles O23: either way of a reset is one equation of the host's operation. -/
theorem resetKeepsTheRplFlags : Obligations.ResetKeepsTheRplFlags := fun s _ =>
  ⟨fun h => congrArg Host.Outcome.next (s.hostReset_of_gt h), fun h => ⟨_, _, congrArg Host.Outcome.next (s.hostReset_of_le h),
    construct_of_le _ h, rfl⟩⟩

/-- Settles O21: the values of State.reset, read off its definition. -/
theorem resetStateIsBareConstruction : Obligations.ResetStateIsBareConstruction := by
  have hinv : State.reset.Inv := ⟨reset_memWf, by decide, fun k => by simp [State.reset], fun _ h => nomatch h⟩
  exact ⟨construct_of_le defaultParams (image := []) (by decide), hinv, .of_fault_eq_none rfl, ⟨rfl, rfl⟩, rfl, rfl, rfl,
    fun r => by simp [State.reset, State.v], rfl, rfl, rfl, rfl, rfl, fun k => by simp [State.reset], fun k => by simp [State.reset],
    Framebuffer.pixel_blank⟩

/-! ### Control flow -/

/-- CALL with room on the stack (rule R103). -/
theorem exec_call_of_lt (a : BitVec 12) {s : State} (h : s.sp.val < 16) :
    exec (.call a) s = .next { s with
      pc := addressOf a, sp := ⟨s.sp.val + 1, by omega⟩, stack := s.stack.set s.sp.val (s.pc + 2) } := by
  simp only [exec, execCall, dif_pos h]
  rfl

/-- CALL with a full stack (rule R103). -/
theorem exec_call_of_full (a : BitVec 12) {s : State} (h : s.sp.val = 16) :
    exec (.call a) s = .next (s.takeFault (.stackOverflow s.pc)) :=
  dif_neg (by omega)

/-- Settles O25: the words of family 2, and the two cases of the stack pointer. -/
theorem callPushesTheNextAddress : Obligations.CallPushesTheNextAddress := by
  refine ⟨wordsDecode_of_opField (o := 0x2) fun p op hop => by simp [decode, hop], fun a s => ⟨fun h => ?_, fun h => ?_⟩⟩
  · refine ⟨_, exec_call_of_lt a h, toNat_addressOf a, rfl, fun k => ?_, fun _ => rfl, rfl⟩
    simp only [Fin.getElem_fin, Vector.getElem_set, eq_comm]
  · exact ⟨_, exec_call_of_full a h, rfl⟩

/-- Settles O27: the entry that RET pops is the one that CALL pushed. -/
theorem retAfterCallContinuesAfterTheCall : Obligations.RetAfterCallContinuesAfterTheCall := by
  intro a s t u hlt hcall hstack hsp
  rw [exec_call_of_lt a hlt] at hcall
  cases hcall
  have hpop : u.sp.val = (⟨s.sp.val, hlt⟩ : Fin 16).val + 1 := congrArg Fin.val hsp
  refine ⟨_, exec_ret_of_succ hpop, ?_, rfl, hstack⟩
  change u.stack[s.sp.val] = s.pc + 2
  rw [hstack]
  exact Vector.getElem_set_self _

theorem val_jumpRegister (p : Params) (a : BitVec 12) :
    (jumpRegister p a).val = if p.bnnnUsesVx = true then a.toNat / 256 else 0 := by
  have ha := a.isLt
  unfold jumpRegister
  split
  · simp [Nat.shiftRight_eq_div_pow]
    omega
  · rfl

/-- Settles O28: the register is the one that the parameter selects, and the sum stays below 65536. -/
theorem jumpWithOffsetAddsTheRegister : Obligations.JumpWithOffsetAddsTheRegister := by
  refine ⟨wordsDecode_of_opField (o := 0xB) fun p op hop => by simp [decode, hop], fun a s r hr => ?_⟩
  obtain rfl : jumpRegister s.params a = r := Fin.ext ((val_jumpRegister s.params a).trans hr.symm)
  exact ⟨_, rfl, toNat_addressOf_add_wide _ _, rfl⟩

/-- The words of families 5 and 9: n is compared with 0 only under SKIP_REG_STRICT (rule R80). -/
theorem wordsDecode_of_skipReg {o : BitVec 4} {f : Word → Instr}
    (h : ∀ p op, opField op = o → ¬ (p.skipRegStrict = true ∧ nField op ≠ 0) → decode p op = .instr (f op)) :
    WordsDecode skipRegMask (encodeXY o 0 0 0) f := by
  intro p op hop
  unfold skipRegMask at hop
  split at hop
  · rw [and_F00F] at hop
    have hn : nField op = 0 := by simpa using congrArg nField hop
    exact h p op (by simpa using congrArg opField hop) fun hne => hne.2 hn
  case isFalse hlax =>
    have ho : opField op = o := by rw [← opField_and_F000, hop, opField_encodeXY]
    exact h p op ho fun hne => hlax hne.1

theorem exec_seReg (x y : Reg) (s : State) :
    exec (.seReg x y) s = .next { s with pc := if s.v x = s.v y then s.pc + 4 else s.pc + 2 } := by
  simp only [exec, execSeReg, State.skipIf_eq, decide_eq_true_eq]

theorem exec_sneReg (x y : Reg) (s : State) :
    exec (.sneReg x y) s = .next { s with pc := if s.v x = s.v y then s.pc + 2 else s.pc + 4 } := by
  simp only [exec, execSneReg, State.skipIf_eq, decide_eq_true_eq, ne_eq, ite_not]

/-- Settles O30: the mask of the register skips, and each skip as one equation of exec. -/
theorem registerSkipsCompareAndSkip : Obligations.RegisterSkipsCompareAndSkip := by
  refine ⟨wordsDecode_of_skipReg (o := 0x5) fun p op hop hn => ?_, wordsDecode_of_skipReg (o := 0x9) fun p op hop hn => ?_,
    fun x y s => ⟨exec_seReg x y s, exec_sneReg x y s⟩⟩
  all_goals
    simp only [decode, hop]
    exact if_neg hn

end Sys2Proof.Machine
end

section
/-! SUPPORT. The results of the register operations and of the index and block instructions on naturals, and the block
transfers as equations of exec. The remaining statements of 41_register_ops.md and 44_timer_io.md. -/

namespace Sys2Proof.Machine

/-! ### Register operations -/

/-- Settles O32: under the quirk VF keeps its value, and otherwise the sum is one write of a register. -/
theorem addImmediateWrapsWithoutFlag : Obligations.AddImmediateWrapsWithoutFlag := by
  refine ⟨wordsDecode_of_opField (o := 0x7) fun p op hop => by simp [decode, hop], fun x nn s => ?_⟩
  by_cases hquirk : x = 15 ∧ s.params.quirkVfAddExclusion = true
  · exact ⟨_, if_pos hquirk, (if_pos hquirk).symm, rfl, .of_pc _ s _⟩
  · obtain ⟨t, ht, hsum, hrest⟩ := exec_of_setV (i := .addImm x nn) (s := s) (x := x) (b := s.v x + nn) (if_neg hquirk)
    exact ⟨t, ht, by rw [hsum, if_neg hquirk, BitVec.toNat_add], hrest⟩

/-- Settles O33: each is one write of a register, whose bits are the operation's. -/
theorem logicOperationsCombineBits : Obligations.LogicOperationsCombineBits := by
  refine ⟨wordsDecode_of_nField (n := 0x1) fun op hn => by simp [decodeAlu, hn],
    wordsDecode_of_nField (n := 0x2) fun op hn => by simp [decodeAlu, hn],
    wordsDecode_of_nField (n := 0x3) fun op hn => by simp [decodeAlu, hn], fun x y s => ⟨?_, ?_, ?_⟩⟩
  · obtain ⟨t, ht, hbits, hrest⟩ := exec_of_setV (i := .or x y) (s := s) rfl
    exact ⟨t, ht, fun k => by rw [hbits, BitVec.getLsbD_or], hrest⟩
  · obtain ⟨t, ht, hbits, hrest⟩ := exec_of_setV (i := .and x y) (s := s) rfl
    exact ⟨t, ht, fun k => by rw [hbits, BitVec.getLsbD_and], hrest⟩
  · obtain ⟨t, ht, hbits, hrest⟩ := exec_of_setV (i := .xor x y) (s := s) rfl
    exact ⟨t, ht, fun k => by rw [hbits, BitVec.getLsbD_xor], hrest⟩

theorem shiftLeft_one_eq_ofNat (a : Byte) : a <<< 1 = BitVec.ofNat 8 (2 * a.toNat) := by
  rw [BitVec.shiftLeft_eq_mul_twoPow]
  bv_omega

/-- The bit shifted out by SHL, at weight 128 if SHL_FLAG_RAW and 1 otherwise (rule R141). -/
theorem shlFlag_eq_ofNat (p : Params) (a : Byte) :
    shlFlag p a = BitVec.ofNat 8 (a.toNat / 128 * (if p.shlFlagRaw = true then 128 else 1)) := by
  have hlt := a.isLt
  unfold shlFlag
  split
  · have hmask : a.toNat &&& 2 ^ 7 = a.toNat / 128 % 2 * 2 ^ 7 := by rw [Nat.and_two_pow, Nat.toNat_testBit]
    apply BitVec.eq_of_toNat_eq
    rw [BitVec.toNat_and, BitVec.toNat_ofNat]
    refine hmask.trans ?_
    omega
  · bv_omega

/-- SHL: the double and the bit shifted out (rule R141). -/
theorem exec_shl (x : Reg) (s : State) :
    exec (.shl x) s = (s.writeRF x (BitVec.ofNat 8 (2 * (s.v x).toNat)) (BitVec.ofNat 8 ((s.v x).toNat / 128 *
      (if s.params.shlFlagRaw = true then 128 else 1)))).finish .advance := by
  simp only [exec, execShl, shlFlag_eq_ofNat, shiftLeft_one_eq_ofNat]

/-- Settles O37: the double wraps, and either reading of the flag fits in a byte. -/
theorem shiftLeftMovesTheHighBitOut : Obligations.ShiftLeftMovesTheHighBitOut := by
  refine ⟨wordsDecode_of_nField (n := 0xE) fun op hn => by simp [decodeAlu, hn], fun x s hx => ?_,
    fun s => .of_writeRF (exec_shl 15 s)⟩
  have hlt := (s.v x).isLt
  obtain ⟨t, ht, hresult, hflag, hrest⟩ := exec_of_writeRF_of_ne (exec_shl x s) hx
  refine ⟨t, ht, by rw [hresult, BitVec.toNat_ofNat], ?_, hrest⟩
  rw [hflag, BitVec.toNat_ofNat, Nat.mod_eq_of_lt (by split <;> omega)]

/-! ### The index register -/

/-- Settles O38: the instruction is one equation of exec. -/
theorem loadIndexTakesTheAddress : Obligations.LoadIndexTakesTheAddress :=
  ⟨wordsDecode_of_opField (o := 0xA) fun p op hop => by simp [decode, hop],
    fun a _ => ⟨_, rfl, toNat_addressOf a, rfl, rfl⟩⟩

/-- Settles O51: under the quirk I keeps its value, and otherwise the sum wraps at 65536. -/
theorem addToIndexWrapsWithoutFlag : Obligations.AddToIndexWrapsWithoutFlag := by
  refine ⟨wordsDecode_of_nnField (o := 0xF) (nn := 0x1E) fun p op hop hnn => by simp [decode, decodeMisc, hop, hnn],
    fun x s => ?_⟩
  by_cases hquirk : x = 15 ∧ s.params.quirkVfAddExclusion = true
  · exact ⟨_, if_pos hquirk, (if_pos hquirk).symm, rfl, rfl⟩
  · refine ⟨_, if_neg hquirk, ?_, rfl, rfl⟩
    rw [if_neg hquirk, BitVec.toNat_add, toNat_wide]

/-- Settles O52: neither product passes 65535. -/
theorem fontPointersAreComputed : Obligations.FontPointersAreComputed := by
  refine ⟨wordsDecode_of_nnField (o := 0xF) (nn := 0x29) fun p op hop hnn => by simp [decode, decodeMisc, hop, hnn],
    wordsDecode_of_nnField (o := 0xF) (nn := 0x30) fun p op hop hnn => by simp [decode, decodeMisc, hop, hnn],
    fun x s => ⟨⟨_, rfl, ?_, rfl, rfl⟩, ⟨_, rfl, ?_, rfl, rfl⟩⟩⟩
  · have hlow : (s.v x &&& 0x0F).toNat = (s.v x).toNat % 16 :=
      (BitVec.toNat_and ..).trans (Nat.and_two_pow_sub_one_eq_mod _ 4)
    change (5 * wide (s.v x &&& 0x0F)).toNat = _
    rw [BitVec.toNat_mul, toNat_wide, hlow]
    exact Nat.mod_eq_of_lt (by change 5 * _ < 65536; omega)
  · have hlt := (s.v x).isLt
    have hwide := toNat_wide (s.v x)
    change (10 * wide (s.v x) + 80).toNat = _
    bv_omega

/-! ### Block transfers -/

theorem State.toNat_blockIncrement_I (s : State) (x : Reg) :
    (s.blockIncrement x).I.toNat =
      if s.params.loadStoreIncrementsI = true then (s.I.toNat + (x.val + 1)) % 65536 else s.I.toNat := by
  have hx : (BitVec.ofNat 16 (x.val + 1)).toNat = x.val + 1 := Nat.mod_eq_of_lt (by omega)
  rw [State.blockIncrement_eq, apply_ite BitVec.toNat, BitVec.toNat_add, hx]

/-- LD [I], Vx whose block would pass the end of memory (rule R243). -/
theorem exec_store_of_gt {s : State} {x : Reg} (h : 0xFFF < s.I.toNat + x.val) :
    exec (.store x) s = .next (s.takeFault (.memoryOutOfRange (max s.I.toNat 0x1000))) := by
  have hrange : rangeFault s.I (x.val + 1) = some (.memoryOutOfRange (max s.I.toNat 0x1000)) := rangeFault_of_gt (by omega)
  simp only [exec, execStore, hrange, guarded_some]

/-- LD Vx, [I] whose block would pass the end of memory (rule R243). -/
theorem exec_load_of_gt {s : State} {x : Reg} (h : 0xFFF < s.I.toNat + x.val) :
    exec (.load x) s = .next (s.takeFault (.memoryOutOfRange (max s.I.toNat 0x1000))) := by
  have hrange : rangeFault s.I (x.val + 1) = some (.memoryOutOfRange (max s.I.toNat 0x1000)) := rangeFault_of_gt (by omega)
  simp only [exec, execLoad, hrange, guarded_some]

/-- LD Vx, [I] whose block lies in memory (rules R239, R243). -/
theorem exec_load_of_le {s : State} {x : Reg} (h : s.I.toNat + x.val ≤ 0xFFF) :
    exec (.load x) s =
      .next { (s.loadUpTo x fun k => s.readByte (s.I.toNat + k)).blockIncrement x with pc := s.pc + 2 } := by
  have hrange : rangeFault s.I (x.val + 1) = none := rangeFault_eq_none.mpr (by omega)
  simp only [exec, execLoad, hrange, guarded_none, State.finish_eq, nextPc, State.blockIncrement_pc, State.loadUpTo_pc]

/-- LD Vx, [I] fills V0..Vx from the bytes at I and leaves the other registers (rule R239). -/
theorem v_of_exec_load {s t : State} {x : Reg} (hle : s.I.toNat + x.val ≤ 0xFFF) (hexec : exec (.load x) s = .next t)
    (r : Reg) : t.v r = if r.val ≤ x.val then s.readByte (s.I.toNat + r.val) else s.v r := by
  obtain rfl : _ = t := Host.Outcome.next.inj ((exec_load_of_le hle).symm.trans hexec)
  calc
    _ = (s.loadUpTo x fun k => s.readByte (s.I.toNat + k)).v r := State.v_congr (State.blockIncrement_V _ _) r
    _ = _ := State.v_loadUpTo ..

/-- Settles O54: the bytes at I are the registers, and the block is the only memory written. -/
theorem registersAreStoredAscending : Obligations.RegistersAreStoredAscending := by
  refine ⟨wordsDecode_of_nnField (o := 0xF) (nn := 0x55) fun p op hop hnn => by simp [decode, decodeMisc, hop, hnn],
    fun x s hwf => ⟨fun hle => ?_, fun hgt => ⟨_, exec_store_of_gt hgt, rfl⟩⟩⟩
  have hexec := exec_store_of_le (x := x) hle
  refine ⟨_, hexec, fun r => readByte_of_exec_store hwf hle hexec, ?_, rfl, ?_⟩
  · exact (State.toNat_blockIncrement_I _ x).trans (by simp)
  · have hframe := StoreFrame.of_writeBytes s s.I.toNat (s.regsUpTo x)
      ((s.writeBytes s.I.toNat (s.regsUpTo x)).blockIncrement x).I (s.pc + 2)
    rw [State.length_regsUpTo] at hframe
    rw [State.blockIncrement_eq] at hframe ⊢
    exact hframe

/-- Settles O55: the block fills V0 to Vx, and beside V only I and pc change. -/
theorem registersAreLoadedAscending : Obligations.RegistersAreLoadedAscending := by
  refine ⟨wordsDecode_of_nnField (o := 0xF) (nn := 0x65) fun p op hop hnn => by simp [decode, decodeMisc, hop, hnn],
    fun x s => ⟨fun hle => ?_, fun hgt => ⟨_, exec_load_of_gt hgt, rfl⟩⟩⟩
  have hexec := exec_load_of_le (x := x) hle
  refine ⟨_, hexec, v_of_exec_load hle hexec, (State.toNat_blockIncrement_I _ x).trans (by simp), rfl, fun a => ?_, ?_⟩
  · exact State.readByte_congr (by simp) (by simp) a
  · rw [State.blockIncrement_eq, State.loadUpTo_eq]

/-- Settles O56: the bytes loaded are those that the store left. -/
theorem storeThenLoadRestoresRegisters : Obligations.StoreThenLoadRestoresRegisters := by
  intro x s t u hwf hle hstore hmem hparams hI
  have hle' : u.I.toNat + x.val ≤ 0xFFF := by rw [hI]; exact hle
  have hload := exec_load_of_le hle'
  refine ⟨_, hload, fun r hr => ?_⟩
  rw [v_of_exec_load hle' hload, if_pos hr, hI, State.readByte_congr hmem hparams]
  exact readByte_of_exec_store hwf hle hstore hr

/-! ### The RPL flags -/

theorem auxIndexFault_of_ge {x : Reg} (h : 8 ≤ x.val) : auxIndexFault x = some (.auxIndexOutOfRange x) := if_pos h

section
variable {s : State} {x : Reg}

theorem exec_storeR_of_lt (h : x.val < 8) : exec (.storeR x) s = .next { s.saveAux x with pc := s.pc + 2 } := by
  simp only [exec, execStoreR, auxIndexFault_eq_none.mpr h, guarded_none]
  rfl

theorem exec_loadR_of_lt (h : x.val < 8) :
    exec (.loadR x) s = .next { s.loadUpTo x s.auxByte with pc := s.pc + 2 } := by
  simp only [exec, execLoadR, auxIndexFault_eq_none.mpr h, guarded_none]
  rfl

theorem exec_storeR_of_ge (h : 8 ≤ x.val) : exec (.storeR x) s = .next (s.takeFault (.auxIndexOutOfRange x)) := by
  simp only [exec, execStoreR, auxIndexFault_of_ge h, guarded_some]

theorem exec_loadR_of_ge (h : 8 ≤ x.val) : exec (.loadR x) s = .next (s.takeFault (.auxIndexOutOfRange x)) := by
  simp only [exec, execLoadR, auxIndexFault_of_ge h, guarded_some]

end

/-- Settles O57: the two sides of x = 8, each one equation of exec. -/
theorem rplFlagsAreSavedAndRestored : Obligations.RplFlagsAreSavedAndRestored := by
  refine ⟨wordsDecode_of_nnField (o := 0xF) (nn := 0x75) fun p op hop hnn => by simp [decode, decodeMisc, hop, hnn],
    wordsDecode_of_nnField (o := 0xF) (nn := 0x85) fun p op hop hnn => by simp [decode, decodeMisc, hop, hnn],
    fun x s => ⟨fun hlt => ⟨?_, ?_⟩, fun hge => ⟨⟨_, exec_storeR_of_ge hge, rfl⟩, ⟨_, exec_loadR_of_ge hge, rfl⟩⟩⟩⟩
  · refine ⟨_, exec_storeR_of_lt hlt, fun k r hr => ?_, rfl, fun _ => rfl, rfl⟩
    have hsaved := s.auxByte_saveAux x k
    rw [State.auxByte_of_lt _ k.isLt, State.auxByte_of_lt _ k.isLt] at hsaved
    have hreg : (⟨k.val, by omega⟩ : Reg) = r := Fin.ext hr.symm
    rw [hreg] at hsaved
    exact hsaved
  · refine ⟨_, exec_loadR_of_lt hlt, fun k r hr hk => ?_, rfl, .of_loadUpTo s x s.auxByte _⟩
    have hloaded := s.v_loadUpTo x s.auxByte r
    rw [if_pos (by omega), hr, State.auxByte_of_lt _ k.isLt] at hloaded
    exact hloaded

end Sys2Proof.Machine
end
